-- ==== Sys2Proof/Word.lean ====
section
/-! DEFINITION. The two widths every rule speaks of (spec/00_scope.md R6): byte and word. -/

namespace Sys2Proof

/-- A byte: an unsigned 8-bit value (R6). -/
abbrev Byte := BitVec 8

/-- A word: an unsigned 32-bit value (R6). -/
abbrev Word := BitVec 32

end Sys2Proof
end

