-- ==== Sys2Proof/Syntax.lean ====
section
/-! DEFINITION. The commands of SPK-CODEC, one constructor per row of spec/opcode_table.json (30_encoding.md R91). -/

namespace Sys2Proof

/-- A command word's meaning (30 R90, R91). There are no operand fields: bits 31:4 of the word are ignored (R92), so
two words with the same OP are the same command. -/
inductive Instr where
  /-- OP 0x0 (43 R241). -/
  | nop
  /-- OP 0x1 (40 R131). -/
  | advParse
  /-- OP 0x2 (40 R146). -/
  | svcQuery
  /-- OP 0x3 (41 R171). -/
  | blkDecode
  /-- OP 0x4 (42 R220). -/
  | unpack7
  /-- OP 0x5 (42 R225). -/
  | xsum
  /-- OP 0x6 (43 R242). -/
  | clear
  /-- OP 0x7 (43 R243). -/
  | reserved7
  /-- OP 0x8 to 0xF (43 R243); `op` is the whole opcode, 8 to 15 in a well-formed command. -/
  | reserved8F (op : BitVec 4)
  deriving DecidableEq, Repr

end Sys2Proof
end

