-- ==== Sys2Proof/WellFormed.lean ====
section
/-! DEFINITION. Which terms of `Instr` a command word can stand for. -/

namespace Sys2Proof

/-- The one check: the opcode of a RESERVED_8_F row is 8 to 15 (30 R91; the table's fixed bit 3). -/
def Instr.wellFormed : Instr → Bool
  | .reserved8F op => decide (8 ≤ op.toNat)
  | .nop => true
  | .advParse => true
  | .svcQuery => true
  | .blkDecode => true
  | .unpack7 => true
  | .xsum => true
  | .clear => true
  | .reserved7 => true

end Sys2Proof
end

