-- ==== Sys2Proof/Decode.lean ====
section
/-! DEFINITION. The decoder and the encoder of the command word (30_encoding.md R90 to R93). -/

namespace Sys2Proof

/-- `OP = v[3:0]` (R93). -/
def opField (v : Word) : BitVec 4 := v.extractLsb' 0 4

/-- The command an opcode names (R91). Total: every opcode has exactly one row (R93), so no word is rejected. -/
def decodeOp (op : BitVec 4) : Instr :=
  match op.toNat with
  | 0 => .nop
  | 1 => .advParse
  | 2 => .svcQuery
  | 3 => .blkDecode
  | 4 => .unpack7
  | 5 => .xsum
  | 6 => .clear
  | 7 => .reserved7
  | _ => .reserved8F op

/-- The command a word written to CMD presents; bits 31:4 are ignored (R90, R92). -/
def decode (v : Word) : Instr := decodeOp (opField v)

/-- The opcode of a command (R91). -/
def Instr.opcode : Instr → BitVec 4
  | .nop => 0x0
  | .advParse => 0x1
  | .svcQuery => 0x2
  | .blkDecode => 0x3
  | .unpack7 => 0x4
  | .xsum => 0x5
  | .clear => 0x6
  | .reserved7 => 0x7
  | .reserved8F op => op

/-- The command word of a command with its ignored bits 31:4 zero (R90). -/
def encode (i : Instr) : Word := i.opcode.zeroExtend 32

/-- One row of the opcode table: a word belongs to the row when its OP, masked, is the row's pattern
(spec/opcode_table.json "mask" and "match"). -/
structure OpcodeRow where
  mnemonic : String
  pattern : BitVec 4
  mask : BitVec 4
  deriving DecidableEq, Repr

/-- The nine rows of spec/opcode_table.json (30 R91). -/
def opcodeTable : List OpcodeRow :=
  [⟨"NOP", 0x0, 0xF⟩, ⟨"ADV_PARSE", 0x1, 0xF⟩, ⟨"SVC_QUERY", 0x2, 0xF⟩, ⟨"BLK_DECODE", 0x3, 0xF⟩,
   ⟨"UNPACK7", 0x4, 0xF⟩, ⟨"XSUM", 0x5, 0xF⟩, ⟨"CLEAR", 0x6, 0xF⟩, ⟨"RESERVED_7", 0x7, 0xF⟩,
   ⟨"RESERVED_8_F", 0x8, 0x8⟩]

/-- Whether a command word belongs to a row. -/
def rowMatches (v : Word) (r : OpcodeRow) : Bool := (opField v &&& r.mask) == r.pattern

/-- The mnemonic of a command, as the opcode table spells it. -/
def Instr.mnemonic : Instr → String
  | .nop => "NOP"
  | .advParse => "ADV_PARSE"
  | .svcQuery => "SVC_QUERY"
  | .blkDecode => "BLK_DECODE"
  | .unpack7 => "UNPACK7"
  | .xsum => "XSUM"
  | .clear => "CLEAR"
  | .reserved7 => "RESERVED_7"
  | .reserved8F _ => "RESERVED_8_F"

/-- The word of an opcode-table row whose given bits are `w` and whose other bits are 0, when it fits the one
32-bit word a command has. -/
def tableWord (nbits w : Nat) : Option Word :=
  if w % 2 ^ nbits < 2 ^ 32 then some (BitVec.ofNat 32 (w % 2 ^ nbits)) else none

/-- The host's question: what the decoder reads from an instruction whose bits are `w`. -/
def decodeTableWord (nbits w : Nat) : Option Instr := (tableWord nbits w).map decode

end Sys2Proof
end

