-- ==== Sys2Proof/Config.lean ====
section
/-! DEFINITION. The parameters of the block (00_scope.md R5) and the free values (93_implementation_defined.md). Every
`opaque` below has no body: nothing can be proved about its value. -/

namespace Sys2Proof

/-- The wire-order constants the frame decoder compares with (00 R5). -/
structure Params where
  /-- MAGIC_BYTES: block bytes 0 to 3 in wire order. -/
  magic : Vector Byte 4
  /-- DIR_FROM_BYTES: block bytes 4 and 5 in wire order. -/
  dirFrom : Vector Byte 2
  /-- SYSEX_ID: block byte 17. -/
  sysexId : Byte
  deriving DecidableEq, Repr

/-- BASE / 0x1000: BASE is OPEN but a multiple of 0x1000 (R5). Log entry 8. -/
opaque Config.basePage : Nat

/-- BASE, the byte address of the 4 KiB register window (R5). -/
def Config.base : Nat := Config.basePage * 0x1000

/-- MAGIC_BYTES, OPEN (R5, D7). Log entry 9. -/
opaque Config.magicBytes : Vector Byte 4

/-- Which of the two candidate orders of the tag 0x41FF stands on the wire, OPEN (R5, D8, 90 C3). Log entry 9. -/
opaque Config.dirHighFirst : Bool

/-- SYSEX_ID, OPEN (R5, D9). Log entry 9. -/
opaque Config.sysexId : Byte

/-- DIR_FROM_BYTES: one of its two candidates (R5). -/
def Config.dirFromBytes : Vector Byte 2 :=
  if Config.dirHighFirst then #v[0x41, 0xFF] else #v[0xFF, 0x41]

/-- The parameters of this block. -/
def Config.params : Params :=
  { magic := Config.magicBytes, dirFrom := Config.dirFromBytes, sysexId := Config.sysexId }

/-- LATENCY of the command accepted at draw `n`: a finite number of host steps, otherwise free (R5, 70 R303, D36).
Log entry 3. -/
opaque Config.latency : Nat → Nat

/-- Free value `n` of a register read while a command is pending (20 R72, D28). Log entry 4. -/
opaque Config.freeWord : Nat → Word

/-- Free value `n` of an IN_BUF byte never written since reset (20 R70, D35). Log entry 4. -/
opaque Config.freeByte : Nat → Byte

end Sys2Proof
end

