-- ==== Sys2Proof/Machine/Operands.lean ====
section
/-! DEFINITION. Byte-list operands and the functions over them that more than one command uses: slices and little-endian
assembly (00 R7, R8), the XOR fold (41 R185), the 7-bit unpacker (41 R195), UTF-8 (41 R203), and the reference packer
(00 R12). -/

namespace Sys2Proof.Machine

/-- `B[a .. a+n-1]`: `n` bytes from index `a` (00 R7). -/
def slice (B : List Byte) (a n : Nat) : List Byte := (B.drop a).take n

/-- `B[i]`; every use is below the length of `B`. -/
def byteAt (B : List Byte) (i : Nat) : Byte := B.getD i 0

/-- `le(B) = Σ_j B[j] << (8*j)` (00 R8). -/
def le : List Byte → Nat
  | [] => 0
  | b :: bs => b.toNat + 256 * le bs

/-- The whole `k`-byte entries of a payload, in order; a final partial entry is left out (40 R135 to R137). -/
def entries (k : Nat) (P : List Byte) : List (List Byte) :=
  (List.range (P.length / k)).map fun j => slice P (k * j) k

/-- `append(xs, x)` while fewer than `cap` are there; otherwise `x` is dropped (40 R135 to R139). -/
def appendCap {α : Type} (cap : Nat) (xs : List α) (x : α) : List α :=
  if xs.length < cap then xs ++ [x] else xs

/-- `xor_fold` (41 R185). -/
def xorFold (P : List Byte) : Byte := P.foldl (fun c b => c ^^^ b) 0

/-- `mask[j] << 7 | d[6:0]` (41 R195). -/
def restoreBit (mask : Byte) (j : Nat) (d : Byte) : Byte :=
  (if mask.getLsbD j then 0x80 else 0x00) ||| (d &&& 0x7F)

/-- The unpacker inside a group with mask `mask`, `j` of its data bytes taken: the next byte is the group's data byte
`j`, or, after 7 of them, the mask of the next group (41 R195). -/
def unpackFrom (mask : Byte) (j : Nat) : List Byte → List Byte
  | [] => []
  | d :: ds => if j < 7 then restoreBit mask j d :: unpackFrom mask (j + 1) ds else unpackFrom d 0 ds

/-- `unpack7` (41 R195): it begins as after a full group, so that the first byte is a mask. -/
def unpack7 (P : List Byte) : List Byte := unpackFrom 0 7 P

/-- The mask byte `pack7` gives a group: bit j is bit 7 of its byte j (00 R12). -/
def packMask : List Byte → Nat
  | [] => 0
  | b :: bs => (b >>> 7).toNat + 2 * packMask bs

/-- `pack7` with `fuel` groups at most (00 R12). -/
def packGroups : Nat → List Byte → List Byte
  | 0, _ => []
  | _ + 1, [] => []
  | fuel + 1, b :: bs =>
    let G := (b :: bs).take 7
    BitVec.ofNat 8 (packMask G) :: G.map (· &&& 0x7F) ++ packGroups fuel ((b :: bs).drop 7)

/-- `pack7` (00 R12), the reference function; the block does not compute it. -/
def pack7 (R : List Byte) : List Byte := packGroups R.length R

/-- The rows of the UTF-8 table by first byte: the ranges its following bytes must lie in, or none where no row
begins with that byte (41 R203, D18). Log entry 13. -/
def utf8Tail (b : Byte) : Option (List (Byte × Byte)) :=
  if b ≤ 0x7F then some []
  else if 0xC2 ≤ b ∧ b ≤ 0xDF then some [(0x80, 0xBF)]
  else if b = 0xE0 then some [(0xA0, 0xBF), (0x80, 0xBF)]
  else if 0xE1 ≤ b ∧ b ≤ 0xEC then some [(0x80, 0xBF), (0x80, 0xBF)]
  else if b = 0xED then some [(0x80, 0x9F), (0x80, 0xBF)]
  else if 0xEE ≤ b ∧ b ≤ 0xEF then some [(0x80, 0xBF), (0x80, 0xBF)]
  else if b = 0xF0 then some [(0x90, 0xBF), (0x80, 0xBF), (0x80, 0xBF)]
  else if 0xF1 ≤ b ∧ b ≤ 0xF3 then some [(0x80, 0xBF), (0x80, 0xBF), (0x80, 0xBF)]
  else if b = 0xF4 then some [(0x80, 0x8F), (0x80, 0xBF), (0x80, 0xBF)]
  else none

/-- Whether a byte list completes a sequence that still needs bytes in the ranges `need`, and goes on with
well-formed sequences to its end (41 R203). -/
def utf8From : List (Byte × Byte) → List Byte → Bool
  | [], [] => true
  | _ :: _, [] => false
  | [], b :: bs =>
    match utf8Tail b with
    | some need => utf8From need bs
    | none => false
  | (lo, hi) :: need, b :: bs => decide (lo ≤ b ∧ b ≤ hi) && utf8From need bs

/-- `utf8_valid` (41 R203). -/
def utf8Valid (N : List Byte) : Bool := utf8From [] N

/-- Word `w` of a byte array: bytes 4w to 4w+3, byte 4w in bits 7:0 (20 R68); a byte past the end reads 0. -/
def packWord (B : List Byte) (w : Nat) : Word :=
  B.getD (4 * w + 3) 0 ++ B.getD (4 * w + 2) 0 ++ B.getD (4 * w + 1) 0 ++ B.getD (4 * w) 0

/-- Byte `k` of a word, bits [8k+7 : 8k] (20 R68). -/
def byteOf (v : Word) (k : Nat) : Byte := v.extractLsb' (8 * k) 8

end Sys2Proof.Machine
end

