-- ==== Sys2Proof/Machine/State.lean ====
section
/-! DEFINITION. The state of SPK-CODEC (10_state.md) as plain data, its value after reset (R48), and the reasons a step
can stop. -/

namespace Sys2Proof.Machine

/-- Why the machine stops with a fault. -/
inductive Fault where
  /-- `ModelFault(UNWRITTEN_INPUT)` (70 R297): raised by the CMD write that would accept ADV_PARSE, BLK_DECODE, UNPACK7
  or XSUM while some IN[j], j < IN_LEN, was never written since reset. Safe: the spec gives such a run no meaning. -/
  | unwrittenInput
  deriving DecidableEq, Repr

/-- Why the machine refuses an instruction. -/
inductive Refusal where
  /-- Raised by an arm of exec whose instruction has no meaning yet; no arm does in this model. Safe: it only stops. -/
  | notModelled (mnemonic : String)
  deriving DecidableEq, Repr

/-- Who takes a step (00 R4); reset is an event in the host's list (70 R290). -/
inductive Agent where
  | host
  | engine
  deriving DecidableEq, Repr

/-- The six opcodes that can be accepted, OP 0x1 to 0x6 (43 R240). -/
inductive Cmd where
  | advParse
  | svcQuery
  | blkDecode
  | unpack7
  | xsum
  | clear
  deriving DecidableEq, Repr

/-- What a command reads, taken at its acceptance (10 R45). S.L is the length of `input`. -/
structure Snapshot where
  /-- IN[0..L-1]. -/
  input : List Byte
  ctrl : BitVec 3
  qKind : BitVec 2
  /-- V = Q_VAL3 << 96 | Q_VAL2 << 64 | Q_VAL1 << 32 | Q_VAL0 (10 R28). -/
  qVal : BitVec 128
  deriving DecidableEq, Repr

/-- An accepted command that waits for the engine (10 R45). -/
structure Pending where
  op : Cmd
  snap : Snapshot
  deriving DecidableEq, Repr

/-- One ADV_OTH slot: the AD type and the stored payload bytes, at most 16 (10 R37). -/
structure OthSlot where
  type : Byte
  bytes : List Byte
  deriving DecidableEq, Repr

/-- The ADV group (10 R30): each list holds its valid entries in arrival order, so that its length is the count of
ADV_CNT or ADV_MFG_LEN and an entry past it reads 0 (R31 to R37). -/
structure Adv where
  /-- ADV_FLAGS: VALID is that there is a value (R31). -/
  flags : Option Byte
  u16 : List (BitVec 16)
  u32 : List (BitVec 32)
  u128 : List (BitVec 128)
  mfg : List Byte
  oth : List OthSlot
  deriving DecidableEq, Repr

/-- The ADV group with nothing in it: its reset value (R48) and where ADV_PARSE begins (40 R131). -/
def Adv.empty : Adv := { flags := none, u16 := [], u32 := [], u128 := [], mfg := [], oth := [] }

/-- DEC_RES.CODE (30 R110). The codes 11 to 14 have no name: they are never produced. -/
inductive DecCode where
  | okAmpname
  | rejShort
  | rejMagic
  | rejDir
  | rejStart
  | rejSysex
  | rejTrailer
  | rejCsum
  | nomsgUnknown
  | rejNameBounds
  | rejNameUtf8
  | noDecode
  deriving DecidableEq, Repr

/-- The DEC group (10 R38): DEC_RES, DEC_HDR, DEC_CSUM, DEC_UNP with UNP_BUF, DEC_NAME. -/
structure Dec where
  /-- DEC_RES.CODE; MSG is that it is OK_AMPNAME (R39). -/
  code : DecCode
  /-- DEC_HDR.SEQ (R40). -/
  seq : Byte
  /-- DEC_HDR.CMDB (R40). -/
  cmdb : Byte
  /-- DEC_HDR.SUB (R40). -/
  sub : Byte
  /-- DEC_HDR.SIZE (R40). -/
  size : Byte
  /-- DEC_CSUM.CSUM_RX (R41). -/
  csumRx : Byte
  /-- DEC_CSUM.CSUM_CALC (R41). -/
  csumCalc : Byte
  /-- UNP[0..ULEN-1]; its length is DEC_UNP.ULEN (R42). -/
  unp : List Byte
  /-- DEC_NAME.NLEN (R43). -/
  nlen : Byte
  /-- DEC_NAME.NSTART (R43). -/
  nstart : BitVec 2
  deriving DecidableEq, Repr

/-- The DEC group after reset (R48): NO_DECODE and zeros. -/
def Dec.cleared : Dec :=
  { code := .noDecode, seq := 0, cmdb := 0, sub := 0, size := 0, csumRx := 0, csumCalc := 0, unp := [], nlen := 0,
    nstart := 0 }

/-- IN_BUF (10 R27): the bytes written since reset, as (j, IN[j]) with j strictly rising. W[j] = 1 iff j is listed
(R45); an unlisted j reads as no value. Log entry 5. -/
abbrev Memory := List Host.Cell

/-- Where a host access goes (20 R61). Log entry 8. -/
inductive Place where
  /-- The register window, at this byte offset from BASE. -/
  | window (off : BitVec 12)
  /-- An address outside the window: no access to SPK-CODEC. -/
  | elsewhere (addr : Nat)
  deriving DecidableEq, Repr

/-- One step from outside the block: a host access (20 R60, 30 R114) or reset (70 R290). `bits` is the access width. -/
inductive HostStep where
  | read (bits : Nat) (at_ : Place)
  | write (bits : Nat) (at_ : Place) (v : Word)
  | reset
  deriving DecidableEq, Repr

/-- The block's answer to a host access (20 R63, R64). Log entry 10. -/
inductive BusResp where
  | readOk (v : Word)
  | writeOk
  /-- `BusError` on a read; the spec gives the data 0x00000000. -/
  | readError (v : Word)
  /-- `BusError` on a write. -/
  | writeError
  deriving DecidableEq, Repr

/-- All the state the spec gives the block, and under "the model's own" what its two agents need. -/
structure State where
  /-- CTRL: bit 0 CSUM_EN, bit 1 NAME_OFF2, bit 2 TRL_EN (R23). -/
  ctrl : BitVec 3
  /-- STATUS.DONE (R25). -/
  done : Bool
  /-- STATUS.ILL (R25). -/
  ill : Bool
  /-- STATUS.OVR (R25). -/
  ovr : Bool
  /-- STATUS.LAST_OP (R25). -/
  lastOp : BitVec 4
  /-- IN_LEN (R26). -/
  inLen : Byte
  /-- IN_BUF and W (R27, R45). -/
  inBuf : Memory
  /-- Q_KIND (R28). -/
  qKind : BitVec 2
  /-- Q_VAL0 (R28). -/
  qVal0 : Word
  /-- Q_VAL1 (R28). -/
  qVal1 : Word
  /-- Q_VAL2 (R28). -/
  qVal2 : Word
  /-- Q_VAL3 (R28). -/
  qVal3 : Word
  /-- Q_RES.MATCH (R29). -/
  qRes : Bool
  /-- XSUM_RES (R44). -/
  xsumRes : Byte
  /-- The ADV group (R30). -/
  adv : Adv
  /-- The DEC group (R38). -/
  dec : Dec
  /-- PENDING (R45); STATUS.BUSY is that it is not none. -/
  pending : Option Pending
  /-- The model's own: what the outside world does next, oldest first. Log entry 1. -/
  bus : List HostStep
  /-- The model's own: the answer to the last host access. Log entry 10. -/
  resp : Option BusResp
  /-- The model's own: the agent whose step this is. Log entry 2. -/
  mover : Agent
  /-- The model's own: how many host steps the engine still lets pass. Log entry 3. -/
  wait : Nat
  /-- The model's own: how many free values were drawn. Log entry 4. -/
  draws : Nat
  deriving DecidableEq, Repr

/-- The block right after reset (R48, 70 R290). The last five fields are the model's own (log entries 1 to 4, 10). -/
def State.reset : State :=
  { ctrl := 0b001, done := false, ill := false, ovr := false, lastOp := 0, inLen := 0, inBuf := [], qKind := 0,
    qVal0 := 0, qVal1 := 0, qVal2 := 0, qVal3 := 0, qRes := false, xsumRes := 0, adv := Adv.empty, dec := Dec.cleared,
    pending := none, bus := [], resp := none, mover := .host, wait := 0, draws := 0 }

end Sys2Proof.Machine
end

