-- ==== Sys2Proof/Machine/Ops.lean ====
section
/-! DEFINITION. The named operations over IN_BUF, the snapshot, acceptance of a CMD write (43 R240) and completion
(43 R245). The block takes no trap (60 R262): what an error event does is `dropWrite` or `markIllegal`. -/

namespace Sys2Proof.Machine

/-- IN[a] when it was written since reset. -/
def Memory.get : Memory → Nat → Option Byte
  | [], _ => none
  | (k, b) :: m, a => if k = a then some b else Memory.get m a

/-- IN[a] <- b; W[a] <- 1 (20 R69), keeping the addresses strictly rising. -/
def Memory.put : Memory → Nat → Byte → Memory
  | [], a, b => [(a, b)]
  | (k, c) :: m, a, b =>
    if a < k then (a, b) :: (k, c) :: m
    else if a = k then (a, b) :: m
    else (k, c) :: Memory.put m a b

/-- Addresses strictly rising, each at least `lo` and below 256. -/
def Memory.risingFrom (lo : Nat) : Memory → Bool
  | [] => true
  | (k, _) :: m => decide (lo ≤ k ∧ k < 256) && Memory.risingFrom (k + 1) m

/-- The canonical form of IN_BUF: addresses strictly rising, all of them 0 to 255 (10 R27). -/
def Memory.wf (m : Memory) : Bool := Memory.risingFrom 0 m

/-- STATUS.BUSY = 1 iff PENDING ≠ none (10 R45). -/
def State.busy (s : State) : Bool := s.pending.isSome

/-- W[j] (10 R45). -/
def State.written (s : State) (j : Nat) : Bool := (Memory.get s.inBuf j).isSome

/-- IN[j]; a byte never written since reset is a free value (10 R48, 20 R70). Log entries 4 and 6. -/
def State.inByte (s : State) (j : Nat) : Byte :=
  match Memory.get s.inBuf j with
  | some b => b
  | none => Config.freeByte (s.draws + j)

/-- V = Q_VAL3 << 96 | Q_VAL2 << 64 | Q_VAL1 << 32 | Q_VAL0 (10 R28). -/
def State.qVal (s : State) : BitVec 128 := s.qVal3 ++ s.qVal2 ++ s.qVal1 ++ s.qVal0

/-- (L, IN[0..L-1], CTRL, Q_KIND, Q_VAL0..3) as they stand (10 R45). -/
def State.snapshot (s : State) : Snapshot :=
  { input := (List.range s.inLen.toNat).map s.inByte, ctrl := s.ctrl, qKind := s.qKind, qVal := s.qVal }

/-- Every IN[j] with j < IN_LEN was written since reset (70 R297). -/
def State.inputWritten (s : State) : Bool := (List.range s.inLen.toNat).all s.written

/-- The command an accepted opcode names. -/
def Cmd.instr : Cmd → Instr
  | .advParse => .advParse
  | .svcQuery => .svcQuery
  | .blkDecode => .blkDecode
  | .unpack7 => .unpack7
  | .xsum => .xsum
  | .clear => .clear

/-- The accepted opcode, 0x1 to 0x6 (43 R240). -/
def Cmd.opcode : Cmd → BitVec 4
  | .advParse => 0x1
  | .svcQuery => 0x2
  | .blkDecode => 0x3
  | .unpack7 => 0x4
  | .xsum => 0x5
  | .clear => 0x6

/-- OP in {0x1, 0x3, 0x4, 0x5}: the commands that read IN_BUF (43 R240). -/
def Cmd.readsInput : Cmd → Bool
  | .advParse => true
  | .svcQuery => false
  | .blkDecode => true
  | .unpack7 => true
  | .xsum => true
  | .clear => false

/-- A write dropped because BUSY = 1: STATUS.OVR <- 1 and nothing else (20 R71, 43 R244). -/
def State.dropWrite (s : State) : State := { s with ovr := true }

/-- STATUS.ILL <- 1 and nothing else (43 R243). -/
def State.markIllegal (s : State) : State := { s with ill := true }

/-- A command is accepted (43 R240): PENDING, BUSY, DONE, LAST_OP; its LATENCY is drawn (00 R5). -/
def State.accept (op : Cmd) (s : State) : State :=
  { s with
    pending := some { op := op, snap := s.snapshot }, done := false, lastOp := op.opcode,
    wait := Config.latency s.draws, draws := s.draws + 256 }

/-- A CMD write with OP 0x1 to 0x6, in the order R240 judges it: busy, unwritten input, acceptance. -/
def issue (op : Cmd) (s : State) : Host.Outcome State Fault Refusal :=
  if s.busy then .next s.dropWrite
  else if op.readsInput && !s.inputWritten then .fault .unwrittenInput
  else .next (s.accept op)

/-- PENDING <- none; STATUS.BUSY <- 0; STATUS.DONE <- 1 (43 R245). -/
def State.finish (s : State) : State := { s with pending := none, done := true }

/-- The snapshot of the pending command, when this is the engine's step and the command pending is `op`. -/
def State.completing (op : Cmd) (s : State) : Option Snapshot :=
  match s.mover, s.pending with
  | .engine, some p => if p.op = op then some p.snap else none
  | _, _ => none

/-- One step of an accepted command: in the engine's step, when `op` is pending, its effect and the completion (43
R245); in the host's step, the CMD write that presents it (43 R240). Log entry 2. -/
def runCommand (op : Cmd) (effect : Snapshot → State → State) (s : State) : Host.Outcome State Fault Refusal :=
  match s.completing op with
  | some S => .next (effect S s).finish
  | none => issue op s

/-- Reset as an event (70 R290, R291): the block takes its reset state; what the outside world does next, and the
count of free values, are not the block's. Log entry 14. -/
def State.resetEvent (s : State) : State := { State.reset with bus := s.bus, draws := s.draws }

/-- A step of the host: it has left the list, and the engine lets one host step fewer pass (00 R5). -/
def State.hostTurn (s : State) : State := { s with bus := s.bus.tail, mover := .host, wait := s.wait - 1 }

/-- A step of the engine. -/
def State.engineTurn (s : State) : State := { s with mover := .engine }

/-- The command the engine completes in this step: one is pending, and its latency has passed or the host has no
step to take (70 R303). Log entry 3. -/
def State.engineReady (s : State) : Option Pending :=
  match s.pending with
  | some p => if s.bus = [] ∨ s.wait = 0 then some p else none
  | none => none

end Sys2Proof.Machine
end

