-- ==== Sys2Proof/Machine/Flags.lean ====
section
/-! DEFINITION. The fields of CTRL, the STATUS word, the result codes, and the words of the ADV and DEC groups that pack
several fields (10_state.md R23 to R43). -/

namespace Sys2Proof.Machine

/-- CTRL.CSUM_EN (R23). -/
def csumEn (ctrl : BitVec 3) : Bool := ctrl.getLsbD 0

/-- CTRL.NAME_OFF2 (R23). -/
def nameOff2 (ctrl : BitVec 3) : Bool := ctrl.getLsbD 1

/-- CTRL.TRL_EN (R23). -/
def trlEn (ctrl : BitVec 3) : Bool := ctrl.getLsbD 2

/-- STATUS (R25): LAST_OP 7:4, OVR 3, ILL 2, DONE 1, BUSY 0. -/
def State.statusWord (s : State) : Word :=
  0#24 ++ s.lastOp ++ BitVec.ofBool s.ovr ++ BitVec.ofBool s.ill ++ BitVec.ofBool s.done ++ BitVec.ofBool s.busy

/-- DEC_RES.CODE (30 R110). -/
def DecCode.value : DecCode → BitVec 4
  | .okAmpname => 0
  | .rejShort => 1
  | .rejMagic => 2
  | .rejDir => 3
  | .rejStart => 4
  | .rejSysex => 5
  | .rejTrailer => 6
  | .rejCsum => 7
  | .nomsgUnknown => 8
  | .rejNameBounds => 9
  | .rejNameUtf8 => 10
  | .noDecode => 15

/-- DEC_RES.MSG = 1 iff CODE = OK_AMPNAME (R39). -/
def Dec.msg (d : Dec) : Bool := d.code == .okAmpname

/-- DEC_RES (R39): MSG bit 8, CODE 3:0. -/
def Dec.resWord (d : Dec) : Word := 0#23 ++ BitVec.ofBool d.msg ++ 0#4 ++ d.code.value

/-- DEC_HDR (R40): SIZE, SUB, CMDB, SEQ from the top. -/
def Dec.hdrWord (d : Dec) : Word := d.size ++ d.sub ++ d.cmdb ++ d.seq

/-- DEC_CSUM (R41). -/
def Dec.csumWord (d : Dec) : Word := 0#16 ++ d.csumCalc ++ d.csumRx

/-- DEC_UNP (R42). -/
def Dec.unpWord (d : Dec) : Word := 0#24 ++ BitVec.ofNat 8 d.unp.length

/-- DEC_NAME (R43). -/
def Dec.nameWord (d : Dec) : Word := 0#22 ++ d.nstart ++ d.nlen

/-- `AmpName { sequence, name }`, when one was decoded: the sequence is DEC_HDR.SEQ and the name
UNP[NSTART .. NSTART+NLEN-1] (R43, 41 R204). -/
def Dec.ampName (d : Dec) : Option (Byte × List Byte) :=
  if d.msg then some (d.seq, (d.unp.drop d.nstart.toNat).take d.nlen.toNat) else none

/-- ADV_FLAGS (R31): VALID bit 8, VALUE 7:0. -/
def Adv.flagsWord (a : Adv) : Word :=
  match a.flags with
  | some f => 0#23 ++ 1#1 ++ f
  | none => 0

/-- ADV_CNT (R32): NOTH 26:24, N128 17:16, N32 10:8, N16 3:0. -/
def Adv.cntWord (a : Adv) : Word :=
  0#5 ++ BitVec.ofNat 3 a.oth.length ++ 0#6 ++ BitVec.ofNat 2 a.u128.length ++ 0#5 ++ BitVec.ofNat 3 a.u32.length ++
    0#4 ++ BitVec.ofNat 4 a.u16.length

/-- ADV_MFG_LEN (R33). -/
def Adv.mfgLenWord (a : Adv) : Word := 0#27 ++ BitVec.ofNat 5 a.mfg.length

/-- ADV_OTH_DESC[k] (R37): OLEN 12:8, TYPE 7:0; 0 past NOTH. -/
def Adv.othDescWord (a : Adv) (k : Nat) : Word :=
  match a.oth[k]? with
  | some o => 0#19 ++ BitVec.ofNat 5 o.bytes.length ++ o.type
  | none => 0

/-- ADV_OTH_DATA[k].W[w] (R37); 0 past NOTH. -/
def Adv.othDataWord (a : Adv) (k w : Nat) : Word :=
  match a.oth[k]? with
  | some o => packWord o.bytes w
  | none => 0

end Sys2Proof.Machine
end

