-- ==== Sys2Proof/Machine/Advertisement.lean ====
section
/-! DEFINITION. The advertisement-data field extractor: ADV_PARSE (40_advertisement.md R130 to R141) and SVC_QUERY (R145
to R148). -/

namespace Sys2Proof.Machine

/-- Flags (type 0x01): kept iff the payload is exactly one byte; the last one wins (R134). -/
def Adv.addFlags (P : List Byte) (a : Adv) : Adv :=
  match P with
  | [f] => { a with flags := some f }
  | _ => a

/-- 16-bit UUIDs (types 0x02, 0x03), at most 8 (R135). -/
def Adv.addList16 (P : List Byte) (a : Adv) : Adv :=
  { a with u16 := (entries 2 P).foldl (fun us e => appendCap 8 us (BitVec.ofNat 16 (le e))) a.u16 }

/-- 32-bit UUIDs (types 0x04, 0x05), at most 4 (R136). -/
def Adv.addList32 (P : List Byte) (a : Adv) : Adv :=
  { a with u32 := (entries 4 P).foldl (fun us e => appendCap 4 us (BitVec.ofNat 32 (le e))) a.u32 }

/-- 128-bit UUIDs (types 0x06, 0x07), at most 2 (R137). -/
def Adv.addList128 (P : List Byte) (a : Adv) : Adv :=
  { a with u128 := (entries 16 P).foldl (fun us e => appendCap 2 us (BitVec.ofNat 128 (le e))) a.u128 }

/-- Manufacturer data (type 0xFF): bytes appended one by one, at most 16 (R138). -/
def Adv.addMfg (P : List Byte) (a : Adv) : Adv := { a with mfg := P.foldl (appendCap 16) a.mfg }

/-- Any other type: a slot with at most 16 payload bytes, at most 4 slots (R139). -/
def Adv.addOther (t : Byte) (P : List Byte) (a : Adv) : Adv :=
  { a with oth := appendCap 4 a.oth { type := t, bytes := P.take 16 } }

/-- Dispatch(t, P) on the AD type (R133, 30 R104). -/
def Adv.dispatch (t : Byte) (P : List Byte) (a : Adv) : Adv :=
  if t = 0x01 then a.addFlags P
  else if t = 0x02 ∨ t = 0x03 then a.addList16 P
  else if t = 0x04 ∨ t = 0x05 then a.addList32 P
  else if t = 0x06 ∨ t = 0x07 then a.addList128 P
  else if t = 0xFF then a.addMfg P
  else a.addOther t P

/-- The walk over AD structures (R131, R132) on the bytes from the cursor on, through at most `fuel` structures: it
stops at the end, at a length byte 0, and at a structure that would read past the end. -/
def Adv.walk : Nat → List Byte → Adv → Adv
  | 0, _, a => a
  | _ + 1, [], a => a
  | fuel + 1, n :: rest, a =>
    if n = 0 ∨ rest.length < n.toNat then a
    else Adv.walk fuel (rest.drop n.toNat) (a.dispatch (byteAt rest 0) (slice rest 1 (n.toNat - 1)))

/-- The record of an advertisement payload, rebuilt from empty (R131). Every structure takes at least two bytes (R132),
so as many structures as bytes are enough. -/
def parseAdv (B : List Byte) : Adv := Adv.walk B.length B Adv.empty

/-- The service-membership test: only entries of the query's own variant, only entries below the count; Q_KIND 3 names
no variant (R146, R147, 30 R106). -/
def Adv.advertises (a : Adv) (kind : BitVec 2) (V : BitVec 128) : Bool :=
  match kind.toNat with
  | 0 => a.u16.any (· == V.extractLsb' 0 16)
  | 1 => a.u32.any (· == V.extractLsb' 0 32)
  | 2 => a.u128.any (· == V)
  | _ => false

/-- The completion of ADV_PARSE (R131): the whole ADV group, and Q_RES <- 0 (D39). -/
def completeAdvParse (S : Snapshot) (s : State) : State := { s with adv := parseAdv S.input, qRes := false }

/-- The completion of SVC_QUERY (R146, R147): Q_RES, and ILL when Q_KIND = 3. -/
def completeSvcQuery (S : Snapshot) (s : State) : State :=
  { s with qRes := s.adv.advertises S.qKind S.qVal, ill := s.ill || S.qKind == 3 }

/-- ADV_PARSE, OP 0x1 (R130, R131). -/
def execAdvParse (s : State) : Host.Outcome State Fault Refusal := runCommand .advParse completeAdvParse s

/-- SVC_QUERY, OP 0x2 (R145 to R147). -/
def execSvcQuery (s : State) : Host.Outcome State Fault Refusal := runCommand .svcQuery completeSvcQuery s

end Sys2Proof.Machine
end

