-- ==== Sys2Proof/Machine/Control.lean ====
section
/-! DEFINITION. The control commands: NOP, CLEAR and the reserved opcodes (43_control.md R241 to R244). -/

namespace Sys2Proof.Machine

/-- The completion of CLEAR (R242): ILL and OVR, and every output, to their reset values. -/
def completeClear (_S : Snapshot) (s : State) : State :=
  { s with ill := false, ovr := false, adv := Adv.empty, qRes := false, xsumRes := 0, dec := Dec.cleared }

/-- A CMD write whose opcode is never accepted: dropped with OVR while busy (R244), else `effect`. -/
def unaccepted (effect : State → State) (s : State) : Host.Outcome State Fault Refusal :=
  if s.busy then .next s.dropWrite else .next (effect s)

/-- NOP, OP 0x0 (R241): nothing. -/
def execNop (s : State) : Host.Outcome State Fault Refusal := unaccepted id s

/-- CLEAR, OP 0x6 (R242). -/
def execClear (s : State) : Host.Outcome State Fault Refusal := runCommand .clear completeClear s

/-- The reserved opcode 0x7 (R243): ILL. -/
def execReserved7 (s : State) : Host.Outcome State Fault Refusal := unaccepted State.markIllegal s

/-- The reserved opcodes 0x8 to 0xF (R243): ILL, whichever it is. -/
def execReserved8F (_op : BitVec 4) (s : State) : Host.Outcome State Fault Refusal := unaccepted State.markIllegal s

end Sys2Proof.Machine
end

