-- ==== Sys2Proof/Machine/FrameDecoder.lean ====
section
/-! DEFINITION. The MIDI-SysEx frame parser: BLK_DECODE (41_frame_decoder.md R170 to R207). -/

namespace Sys2Proof.Machine

/-- The shortest block, 16 + 6 + 1 bytes (R175). -/
def minBlock : Nat := 23

/-- The packed payload, bytes 22 to L-2 (30 R94, R97). -/
def packedPayload (B : List Byte) : List Byte := slice B 22 (B.length - minBlock)

/-- The DEC group of a block of at least 23 bytes with result `code`, unpacked bytes `U` and name field (`nlen`,
`nstart`): the raw header bytes and both checksums are captured whatever the result (R176). -/
def captured (B : List Byte) (code : DecCode) (U : List Byte) (nlen : Byte) (nstart : BitVec 2) : Dec :=
  { code := code, seq := byteAt B 18, cmdb := byteAt B 20, sub := byteAt B 21, size := byteAt B 6,
    csumRx := byteAt B 19, csumCalc := xorFold (packedPayload B), unp := U, nlen := nlen, nstart := nstart }

/-- The frame checks in the order of R171: magic, direction, start, vendor id, trailer, checksum (R180 to R186). The
code of the first one that fails (R205); none when the frame passes. -/
def frameReject (p : Params) (B : List Byte) (ctrl : BitVec 3) : Option DecCode :=
  if slice B 0 4 ≠ p.magic.toList then some .rejMagic
  else if slice B 4 2 ≠ p.dirFrom.toList then some .rejDir
  else if byteAt B 16 ≠ 0xF0 then some .rejStart
  else if byteAt B 17 ≠ p.sysexId then some .rejSysex
  else if trlEn ctrl ∧ byteAt B (B.length - 1) ≠ 0xF7 then some .rejTrailer
  else if csumEn ctrl ∧ xorFold (packedPayload B) ≠ byteAt B 19 then some .rejCsum
  else none

/-- The offset of the name in the unpacked payload (30 R102, 41 R202). -/
def nameOffset (ctrl : BitVec 3) : Nat := if nameOff2 ctrl then 2 else 1

/-- The amp-name response in the unpacked payload `U`, with the name at offset `o`: its result code (R202 to R204). -/
def nameCode (U : List Byte) (o : Nat) : DecCode :=
  match U with
  | [] => .rejNameBounds
  | n :: _ =>
    if o + n.toNat > U.length then .rejNameBounds
    else if utf8Valid (slice U o n.toNat) then .okAmpname
    else .rejNameUtf8

/-- The result code of a frame that passed every check, with unpacked payload `U`: the message dispatch on (command,
sub-command) (R201, 30 R101). -/
def messageCode (B U : List Byte) (ctrl : BitVec 3) : DecCode :=
  if byteAt B 20 = 0x03 ∧ byteAt B 21 = 0x11 then nameCode U (nameOffset ctrl) else .nomsgUnknown

/-- The DEC group of a frame that passed every check: the payload is unpacked whatever the message (R200), and DEC_NAME
is written only on success (R204). -/
def decodeFrame (B : List Byte) (ctrl : BitVec 3) : Dec :=
  let U := unpack7 (packedPayload B)
  if messageCode B U ctrl = .okAmpname then
    captured B .okAmpname U (byteAt U 0) (BitVec.ofNat 2 (nameOffset ctrl))
  else captured B (messageCode B U ctrl) U 0 0

/-- The whole DEC group BLK_DECODE leaves (R171, R172, R175); a rejected frame leaves nothing unpacked (R200). -/
def decodeBlock (p : Params) (B : List Byte) (ctrl : BitVec 3) : Dec :=
  if B.length < minBlock then { Dec.cleared with code := .rejShort }
  else match frameReject p B ctrl with
    | some code => captured B code [] 0 0
    | none => decodeFrame B ctrl

/-- The completion of BLK_DECODE (R171): the whole DEC group. -/
def completeBlkDecode (S : Snapshot) (s : State) : State := { s with dec := decodeBlock Config.params S.input S.ctrl }

/-- BLK_DECODE, OP 0x3 (R170, R171). -/
def execBlkDecode (s : State) : Host.Outcome State Fault Refusal := runCommand .blkDecode completeBlkDecode s

end Sys2Proof.Machine
end

