-- ==== Sys2Proof/Machine/Primitives.lean ====
section
/-! DEFINITION. The stand-alone primitives: UNPACK7 (42_primitives.md R220, R221) and XSUM (R225, R226). -/

namespace Sys2Proof.Machine

/-- The completion of UNPACK7 (R220): the whole DEC group, NO_DECODE with the unpacked bytes. -/
def completeUnpack7 (S : Snapshot) (s : State) : State := { s with dec := { Dec.cleared with unp := unpack7 S.input } }

/-- The completion of XSUM (R225): XSUM_RES. -/
def completeXsum (S : Snapshot) (s : State) : State := { s with xsumRes := xorFold S.input }

/-- UNPACK7, OP 0x4 (R220). -/
def execUnpack7 (s : State) : Host.Outcome State Fault Refusal := runCommand .unpack7 completeUnpack7 s

/-- XSUM, OP 0x5 (R225). -/
def execXsum (s : State) : Host.Outcome State Fault Refusal := runCommand .xsum completeXsum s

end Sys2Proof.Machine
end

