-- ==== Sys2Proof/Machine/Dispatch.lean ====
section
/-! DEFINITION. One arm per command. -/

namespace Sys2Proof.Machine

def exec (i : Instr) (s : State) : Host.Outcome State Fault Refusal :=
  match i with
  | .nop => Sys2Proof.Machine.execNop s
  | .advParse => Sys2Proof.Machine.execAdvParse s
  | .svcQuery => Sys2Proof.Machine.execSvcQuery s
  | .blkDecode => Sys2Proof.Machine.execBlkDecode s
  | .unpack7 => Sys2Proof.Machine.execUnpack7 s
  | .xsum => Sys2Proof.Machine.execXsum s
  | .clear => Sys2Proof.Machine.execClear s
  | .reserved7 => Sys2Proof.Machine.execReserved7 s
  | .reserved8F op => Sys2Proof.Machine.execReserved8F op s

end Sys2Proof.Machine
end

