-- ==== Sys2Proof/Machine/Window.lean ====
section
/-! DEFINITION. The register window: its map (10 R22), reads, writes and the bus rules (20 R60 to R72). -/

namespace Sys2Proof.Machine

/-- The registers of the window (10 R22). -/
inductive Reg where
  | ctrl
  | cmd
  | status
  | inLen
  | qKind
  | qVal (i : Fin 4)
  | qRes
  | xsumRes
  | advFlags
  | advCnt
  | advMfgLen
  | advU16 (i : Fin 8)
  | advU32 (i : Fin 4)
  | advU128 (k : Fin 2) (w : Fin 4)
  | advMfg (w : Fin 4)
  | othDesc (k : Fin 4)
  | othData (k : Fin 4) (w : Fin 4)
  | decRes
  | decHdr
  | decCsum
  | decUnp
  | decName
  | inBuf (w : Fin 64)
  | unpBuf (w : Fin 56)
  deriving DecidableEq, Repr

/-- A register's byte offset from BASE (10 R22). -/
def Reg.offset : Reg → Nat
  | .ctrl => 0x000
  | .cmd => 0x004
  | .status => 0x008
  | .inLen => 0x00C
  | .qKind => 0x010
  | .qVal i => 0x014 + 4 * i
  | .qRes => 0x024
  | .xsumRes => 0x028
  | .advFlags => 0x040
  | .advCnt => 0x044
  | .advMfgLen => 0x048
  | .advU16 i => 0x050 + 4 * i
  | .advU32 i => 0x070 + 4 * i
  | .advU128 k w => 0x080 + 16 * k + 4 * w
  | .advMfg w => 0x0A0 + 4 * w
  | .othDesc k => 0x0C0 + 0x20 * k
  | .othData k w => 0x0C4 + 0x20 * k + 4 * w
  | .decRes => 0x200
  | .decHdr => 0x204
  | .decCsum => 0x208
  | .decUnp => 0x20C
  | .decName => 0x210
  | .inBuf w => 0x400 + 4 * w
  | .unpBuf w => 0x600 + 4 * w

/-- Every register of the window, in the order of the map (10 R22). -/
def Reg.all : List Reg :=
  [.ctrl, .cmd, .status, .inLen, .qKind] ++ (List.finRange 4).map .qVal ++
    [.qRes, .xsumRes, .advFlags, .advCnt, .advMfgLen] ++
    (List.finRange 8).map .advU16 ++ (List.finRange 4).map .advU32 ++
    (List.finRange 2).flatMap (fun k => (List.finRange 4).map (.advU128 k)) ++
    (List.finRange 4).map .advMfg ++
    (List.finRange 4).flatMap (fun k => .othDesc k :: (List.finRange 4).map (.othData k)) ++
    [.decRes, .decHdr, .decCsum, .decUnp, .decName] ++
    (List.finRange 64).map .inBuf ++ (List.finRange 56).map .unpBuf

/-- The register at a word-aligned offset: the one whose offset it is; none where the offset is unmapped (10 R22, 20
R65). -/
def regAligned (n : Nat) : Option Reg := Reg.all.find? fun r => r.offset == n

/-- `off[1:0] = 0` and 32 bits wide: the only accesses that are no bus error (20 R63, R64). -/
def goodAccess (bits : Nat) (off : BitVec 12) : Bool := bits == 32 && off.toNat % 4 == 0

/-- Where an access to byte address `A` goes (20 R61). -/
def placeOf (A : Nat) : Place :=
  if Config.base ≤ A ∧ A ≤ Config.base + 0xFFF then .window (BitVec.ofNat 12 (A - Config.base)) else .elsewhere A

/-- The result registers, whose reads are any value while a command is pending: the ADV group, the DEC group, Q_RES
and XSUM_RES (20 R72). -/
def Reg.isResult : Reg → Bool
  | .ctrl | .cmd | .status | .inLen | .qKind | .qVal _ | .inBuf _ => false
  | .qRes | .xsumRes | .advFlags | .advCnt | .advMfgLen | .advU16 _ | .advU32 _ | .advU128 _ _ | .advMfg _
  | .othDesc _ | .othData _ _ | .decRes | .decHdr | .decCsum | .decUnp | .decName | .unpBuf _ => true

/-- Word `w` of IN_BUF; each byte never written since reset is a fresh free value (20 R70). -/
def State.inWord (s : State) (w : Nat) : Word :=
  s.inByte (4 * w + 3) ++ s.inByte (4 * w + 2) ++ s.inByte (4 * w + 1) ++ s.inByte (4 * w)

/-- What a register holds (10 R22 to R44); reserved bits and entries past a count read 0 (20 R66). CMD reads 0 (R24). -/
def State.regValue (s : State) : Reg → Word
  | .ctrl => s.ctrl.zeroExtend 32
  | .cmd => 0
  | .status => s.statusWord
  | .inLen => s.inLen.zeroExtend 32
  | .qKind => s.qKind.zeroExtend 32
  | .qVal i => if i = 0 then s.qVal0 else if i = 1 then s.qVal1 else if i = 2 then s.qVal2 else s.qVal3
  | .qRes => (BitVec.ofBool s.qRes).zeroExtend 32
  | .xsumRes => s.xsumRes.zeroExtend 32
  | .advFlags => s.adv.flagsWord
  | .advCnt => s.adv.cntWord
  | .advMfgLen => s.adv.mfgLenWord
  | .advU16 i => (s.adv.u16.getD i 0).zeroExtend 32
  | .advU32 i => s.adv.u32.getD i 0
  | .advU128 k w => (s.adv.u128.getD k 0).extractLsb' (32 * w) 32
  | .advMfg w => packWord s.adv.mfg w
  | .othDesc k => s.adv.othDescWord k
  | .othData k w => s.adv.othDataWord k w
  | .decRes => s.dec.resWord
  | .decHdr => s.dec.hdrWord
  | .decCsum => s.dec.csumWord
  | .decUnp => s.dec.unpWord
  | .decName => s.dec.nameWord
  | .inBuf w => s.inWord w
  | .unpBuf w => packWord s.dec.unp w

/-- The word a good read of a register answers: any value for a result register while busy (20 R72), else what it
holds. -/
def State.readReg (s : State) (r : Reg) : Word :=
  if r.isResult && s.busy then Config.freeWord s.draws else s.regValue r

/-- How many free values a good read of a register may draw: one byte for each IN_BUF address, so that no index of an
earlier draw comes back. -/
def readDraws : Nat := 256

/-- IN_BUF word `w` <- v: four bytes and four W bits (20 R69). -/
def State.putInWord (s : State) (w : Nat) (v : Word) : State :=
  { s with
    inBuf := Memory.put (Memory.put (Memory.put (Memory.put s.inBuf (4 * w) (byteOf v 0)) (4 * w + 1) (byteOf v 1))
      (4 * w + 2) (byteOf v 2)) (4 * w + 3) (byteOf v 3) }

/-- The input registers, whose writes are dropped while busy (20 R71); CMD is judged by `issue` and its like. -/
def Reg.isInput : Reg → Bool
  | .ctrl | .inLen | .qKind | .qVal _ | .inBuf _ => true
  | .cmd | .status | .qRes | .xsumRes | .advFlags | .advCnt | .advMfgLen | .advU16 _ | .advU32 _ | .advU128 _ _
  | .advMfg _ | .othDesc _ | .othData _ _ | .decRes | .decHdr | .decCsum | .decUnp | .decName | .unpBuf _ => false

/-- The store of a good write to a register: read-write registers keep the bits they have (20 R66), read-only ones
ignore it (20 R67). A write to CMD stores nothing: it is a command (10 R24). -/
def State.storeReg (s : State) (v : Word) : Reg → State
  | .ctrl => { s with ctrl := v.extractLsb' 0 3 }
  | .inLen => { s with inLen := v.extractLsb' 0 8 }
  | .qKind => { s with qKind := v.extractLsb' 0 2 }
  | .qVal i =>
    if i = 0 then { s with qVal0 := v } else if i = 1 then { s with qVal1 := v }
    else if i = 2 then { s with qVal2 := v } else { s with qVal3 := v }
  | .inBuf w => s.putInWord w v
  | .cmd | .status | .qRes | .xsumRes | .advFlags | .advCnt | .advMfgLen | .advU16 _ | .advU32 _ | .advU128 _ _
  | .advMfg _ | .othDesc _ | .othData _ _ | .decRes | .decHdr | .decCsum | .decUnp | .decName | .unpBuf _ => s

/-- A good write to a register other than CMD: an input register's write is dropped while busy (20 R71). -/
def State.writeReg (s : State) (v : Word) (r : Reg) : State :=
  if r.isInput && s.busy then s.dropWrite else s.storeReg v r

/-- The word a host step writes to CMD, when it is a good write to CMD: the command word it presents (10 R24). -/
def cmdWord : HostStep → Option Word
  | .write bits (.window off) v =>
    if goodAccess bits off && regAligned off.toNat == some .cmd then some v else none
  | .write _ (.elsewhere _) _ => none
  | .read _ _ => none
  | .reset => none

/-- The state in which a CMD write presents its command: the write itself is answered without error (20 R64, R71). -/
def State.cmdTurn (s : State) : State := { s.hostTurn with resp := some .writeOk }

/-- A read from the window (20 R63 to R65, R70, R72): it changes nothing but the bus's answer. -/
def State.readWindow (s : State) (bits : Nat) (off : BitVec 12) : State :=
  if goodAccess bits off then
    match regAligned off.toNat with
    | some r => { s with resp := some (.readOk (s.readReg r)), draws := s.draws + readDraws }
    | none => { s with resp := some (.readOk 0) }
  else { s with resp := some (.readError 0) }

/-- A write to the window other than a good CMD write (20 R63 to R67, R69, R71). -/
def State.writeWindow (s : State) (bits : Nat) (off : BitVec 12) (v : Word) : State :=
  if goodAccess bits off then
    match regAligned off.toNat with
    | some r => { s.writeReg v r with resp := some .writeOk }
    | none => { s with resp := some .writeOk }
  else { s with resp := some .writeError }

/-- What a host step other than a good CMD write does. An access elsewhere does nothing to the block (20 R61). -/
def State.hostAccess (s : State) : HostStep → State
  | .read bits (.window off) => s.readWindow bits off
  | .write bits (.window off) v => s.writeWindow bits off v
  | .read _ (.elsewhere _) => s
  | .write _ (.elsewhere _) _ => s
  | .reset => s.resetEvent

end Sys2Proof.Machine
end

