-- ==== Sys2Proof/Machine/Step.lean ====
section
/-! DEFINITION. One step of the step sequence (20_memory.md R75): the engine's completion of the pending command, or the
next step of the host, which may present a command. -/

namespace Sys2Proof.Machine

/-- One step. The engine completes the pending command (70 R303); else the host takes its next step: a good write to
CMD runs the command it presents (43 R240), any other access or reset acts on the window. With nothing to do the block
keeps its state (60 R271). -/
def step (s : State) : Host.Outcome State Fault Refusal :=
  match s.engineReady with
  | some p => exec p.op.instr s.engineTurn
  | none =>
    match s.bus with
    | [] => .next s
    | h :: _ =>
      match cmdWord h with
      | some v => exec (decode v) s.cmdTurn
      | none => .next (s.hostTurn.hostAccess h)

/-- The host's next step is the write to CMD of the opcode-table word `w` (its bits above `nbits` 0), and the engine
lets that step pass first. Nothing where the word does not fit the one 32-bit word of a command. Log entry 1. -/
def State.withFetchWord (s : State) (nbits w : Nat) : State :=
  match tableWord nbits w with
  | some v => { s with bus := .write 32 (.window 0x004) v :: s.bus, wait := s.wait + 1 }
  | none => s

end Sys2Proof.Machine
end

