-- ==== Sys2Proof/Machine/HostProgram.lean ====
section
/-! DEFINITION. The host's programs as lists of host steps (30_encoding.md R112 to R114, D42) and the block layout of the
spec's vectors (30 R94, 95 section 0). No part of the hardware: what a host hands to the block. -/

namespace Sys2Proof.Machine

/-- `WR off, v` (R112). -/
def hostWrite (off : BitVec 12) (v : Word) : HostStep := .write 32 (.window off) v

/-- `RD off` (R112). -/
def hostRead (off : BitVec 12) : HostStep := .read 32 (.window off)

/-- `LOAD b0 .. b(n-1)` (R113): the IN_BUF words that hold the bytes, 0 past the last, then IN_LEN. -/
def hostLoad (B : List Byte) : List HostStep :=
  (List.range ((B.length + 3) / 4)).map (fun k => hostWrite (BitVec.ofNat 12 (0x400 + 4 * k)) (packWord B k)) ++
    [hostWrite 0x00C (BitVec.ofNat 32 B.length)]

/-- `ISSUE name` (R113). -/
def hostIssue (op : Cmd) : HostStep := hostWrite 0x004 (op.opcode.zeroExtend 32)

/-- `RUN name` with a WAIT of `n` reads of STATUS (R113); how many are needed is not fixed (95 section 3). -/
def hostRun (op : Cmd) (n : Nat) : List HostStep := hostIssue op :: List.replicate n (hostRead 0x008)

/-- `SETCTRL c` (R113). -/
def hostSetCtrl (c : Word) : HostStep := hostWrite 0x000 c

/-- `QUERY k, v0, v1, v2, v3` with a WAIT of `n` reads (R113). -/
def hostQuery (k v0 v1 v2 v3 : Word) (n : Nat) : List HostStep :=
  [hostWrite 0x010 k, hostWrite 0x014 v0, hostWrite 0x018 v1, hostWrite 0x01C v2, hostWrite 0x020 v3] ++
    hostRun .svcQuery n

/-- One notification block around the packed payload `P` (30 R94, 95 section 0): the size byte is the block's length
(90 C5), the reserved bytes are 0, the checksum is right. -/
def buildBlock (p : Params) (seq cmd sub : Byte) (P : List Byte) : List Byte :=
  p.magic.toList ++ p.dirFrom.toList ++ BitVec.ofNat 8 (23 + P.length) :: List.replicate 9 0 ++
    [0xF0, p.sysexId, seq, xorFold P, cmd, sub] ++ P ++ [0xF7]

end Sys2Proof.Machine
end

