-- ==== Sys2Proof/Safety.lean ====
section
/-! DEFINITION. The terms in which claims speak of the block: the ranges of 10_state.md R49, the agreement of a pending
snapshot with the registers (R46), the invariant of the step, the block without its surroundings, and the rows of the
UTF-8 table (41 R203). -/

namespace Sys2Proof.Machine

/-- The ADV group's ranges: N16, N32, N128, MLEN, NOTH and each OLEN (10 R49). -/
abbrev Adv.InRange (a : Adv) : Prop :=
  a.u16.length ≤ 8 ∧ a.u32.length ≤ 4 ∧ a.u128.length ≤ 2 ∧ a.mfg.length ≤ 16 ∧ a.oth.length ≤ 4 ∧
    ∀ o ∈ a.oth, o.bytes.length ≤ 16

/-- The DEC group's ranges (10 R42, R43, R49): ULEN ≤ 223; DEC_NAME ≠ 0 only with OK_AMPNAME, and then NSTART is 1 or
2 and the name lies in the valid bytes of UNP_BUF. -/
abbrev Dec.InRange (d : Dec) : Prop :=
  d.unp.length ≤ 223 ∧ (d.nameWord ≠ 0 → d.code = .okAmpname) ∧
    (d.code = .okAmpname → (d.nstart = 1 ∨ d.nstart = 2) ∧ d.nstart.toNat + d.nlen.toNat ≤ d.unp.length)

/-- The pending command's snapshot holds what the registers hold now (10 R45, R46), its opcode is LAST_OP, and a command
that reads IN_BUF reads only written bytes (70 R297). -/
abbrev Pending.Agrees (p : Pending) (s : State) : Prop :=
  s.lastOp = p.op.opcode ∧ p.snap.ctrl = s.ctrl ∧ p.snap.qKind = s.qKind ∧ p.snap.qVal = s.qVal ∧
    p.snap.input.length = s.inLen.toNat ∧
    (∀ j < s.inLen.toNat, ∀ b ∈ Memory.get s.inBuf j, p.snap.input[j]? = some b) ∧
    (p.op.readsInput = true → s.inputWritten = true)

/-- What every step keeps. -/
structure State.Inv (s : State) : Prop where
  advInRange : s.adv.InRange
  decInRange : s.dec.InRange
  /-- IN_BUF keeps its canonical form. -/
  inBufWf : Memory.wf s.inBuf = true
  /-- LAST_OP is 0 or an accepted opcode (10 R25). -/
  lastOpLegal : s.lastOp.toNat ≤ 6
  /-- DONE = 1 iff some command was accepted since reset and none is pending; so BUSY and DONE never hold together
  (10 R25). -/
  doneIff : s.done = (s.lastOp != 0 && !s.busy)
  pendingAgrees : ∀ p, s.pending = some p → p.Agrees s

/-- The spec's own state, without the model's own fields (bus, answer, mover, latency, draws). -/
def State.block (s : State) : State := { s with bus := [], resp := none, mover := .host, wait := 0, draws := 0 }

/-- The host takes the next step, and it is `h`: no command is ready to complete. -/
abbrev State.HostNext (s : State) (h : HostStep) : Prop := s.engineReady = none ∧ s.bus.head? = some h

/-- The engine's step with the command `op` pending on the snapshot `S`. -/
abbrev State.Completes (s : State) (op : Cmd) (S : Snapshot) : Prop :=
  s.mover = .engine ∧ s.pending = some { op := op, snap := S }

/-- One well-formed UTF-8 sequence, row by row of the table of 41 R203. -/
def utf8Row : List Byte → Prop
  | [a] => a ≤ 0x7F
  | [a, b] => (0xC2 ≤ a ∧ a ≤ 0xDF) ∧ (0x80 ≤ b ∧ b ≤ 0xBF)
  | [a, b, c] =>
    ((a = 0xE0 ∧ 0xA0 ≤ b ∧ b ≤ 0xBF) ∨ (0xE1 ≤ a ∧ a ≤ 0xEC ∧ 0x80 ≤ b ∧ b ≤ 0xBF) ∨
      (a = 0xED ∧ 0x80 ≤ b ∧ b ≤ 0x9F) ∨ (0xEE ≤ a ∧ a ≤ 0xEF ∧ 0x80 ≤ b ∧ b ≤ 0xBF)) ∧
    (0x80 ≤ c ∧ c ≤ 0xBF)
  | [a, b, c, d] =>
    ((a = 0xF0 ∧ 0x90 ≤ b ∧ b ≤ 0xBF) ∨ (0xF1 ≤ a ∧ a ≤ 0xF3 ∧ 0x80 ≤ b ∧ b ≤ 0xBF) ∨
      (a = 0xF4 ∧ 0x80 ≤ b ∧ b ≤ 0x8F)) ∧
    (0x80 ≤ c ∧ c ≤ 0xBF) ∧ (0x80 ≤ d ∧ d ≤ 0xBF)
  | _ => False

/-- One AD structure as it stands in an advertisement payload: length byte, type byte, payload (30 R103). -/
def adBytes (x : Byte × List Byte) : List Byte := BitVec.ofNat 8 (x.2.length + 1) :: x.1 :: x.2

/-- Bytes at which the AD walk stops: none left, a length byte 0, or a structure that would read past the end (40
R132). -/
def walkStops : List Byte → Prop
  | [] => True
  | n :: rest => n = 0 ∨ rest.length < n.toNat

/-- Block bytes 0 to 5 and 17 are the parameters, byte 16 is 0xF0, and the trailer and checksum hold where CTRL asks
for them: the frame checks of 41 R180 to R186, byte by byte. -/
def framePasses (p : Params) (B : List Byte) (ctrl : BitVec 3) : Prop :=
  (∀ j : Fin 4, byteAt B j = p.magic[j]) ∧ (∀ j : Fin 2, byteAt B (4 + j) = p.dirFrom[j]) ∧
    byteAt B 16 = 0xF0 ∧ byteAt B 17 = p.sysexId ∧
    (trlEn ctrl = true → byteAt B (B.length - 1) = 0xF7) ∧
    (csumEn ctrl = true → xorFold (slice B 22 (B.length - 23)) = byteAt B 19)

end Sys2Proof.Machine
end

