-- ==== Sys2Proof/Certificates/Slice0/Obligations.lean ====
section
/-! DEFINITION. What is claimed of the model. Each claim's docstring names the rule or the part of the spec it formalises;
`State.block` is the spec's own state without the model's surroundings. -/

open Sys2Proof Sys2Proof.Machine

/-! ### The command word (30_encoding.md) -/

/-- 30 R90 to R92: encoding loses nothing of a well-formed command, the ignored bits change nothing, and every word
decodes to a well-formed command whose word it is but for its ignored bits. -/
def Obligations.DecodeAndEncodeAgree : Prop :=
  (∀ i : Instr, i.wellFormed = true → decode (encode i) = i ∧ ∀ x : BitVec 28, decode (x ++ i.opcode) = i) ∧
  (∀ v : Word, (decode v).wellFormed = true ∧ encode (decode v) = v &&& 0xF)

/-- 30 R93: OP = v[3:0], and every word belongs to exactly one row of the opcode table, the row of the command it
decodes to. -/
def Obligations.EveryWordSelectsExactlyOneRow : Prop :=
  ∀ v : Word, (opField v).toNat = v.toNat % 16 ∧
    ∃ r ∈ opcodeTable, rowMatches v r = true ∧ r.mnemonic = (decode v).mnemonic ∧
      ∀ r' ∈ opcodeTable, rowMatches v r' = true → r' = r

/-- 30 R91 and 95 K1 to K4: words written out from the opcode map. -/
def Obligations.SpecWordsDecode : Prop :=
  decode 0x00000000 = .nop ∧ decode 0xFFFFFFF0 = .nop ∧ decode 0x00000001 = .advParse ∧
  decode 0x00000002 = .svcQuery ∧ decode 0x00000003 = .blkDecode ∧ decode 0x00000004 = .unpack7 ∧
  decode 0x00000005 = .xsum ∧ decode 0x00000006 = .clear ∧ decode 0x00000007 = .reserved7 ∧
  decode 0x0000000F = .reserved8F 0xF ∧ decode 0xABCDEF18 = .reserved8F 0x8

/-! ### The step -/

/-- A step in which the host's next step is a 32-bit write of `v` to CMD is exec of the decoded command on the state the
write leaves (43 R240; log entries 1 to 3, 10: the list `bus`, `mover`, `wait` and `resp` are the model's own). So is
the step after an opcode-table word is placed. -/
def Obligations.StepRunsPresentedCommand : Prop :=
  (∀ (s : State) (v : Word) (rest : List HostStep), s.engineReady = none →
    s.bus = .write 32 (.window 0x004) v :: rest →
    step s = exec (decode v) { s with bus := rest, mover := .host, wait := s.wait - 1, resp := some .writeOk }) ∧
  (∀ (s : State) (nbits w : Nat), w % 2 ^ nbits < 2 ^ 32 →
    step (s.withFetchWord nbits w) =
      exec (decode (BitVec.ofNat 32 (w % 2 ^ nbits))) { s with mover := .host, resp := some .writeOk })

/-- 70 R303, 60 R271: with a command pending whose latency has passed, or with no host step left (log entry 3), the step
is exec of that command in the engine's turn; with nothing pending and no host step the block keeps all its state (log
entry 11). -/
def Obligations.StepWithoutAHostStep : Prop :=
  (∀ (s : State) (p : Pending), s.pending = some p → s.bus = [] ∨ s.wait = 0 →
    step s = exec p.op.instr { s with mover := .engine }) ∧
  (∀ s : State, s.pending = none → s.bus = [] → step s = .next s)

/-- 00 R11, 70 R297: the only step that answers no next state is the CMD write that would accept a command reading an
IN_BUF byte never written since reset. -/
def Obligations.StepStopsOnlyOnUnwrittenInput : Prop :=
  ∀ s : State, (∃ t, step s = .next t) ∨
    (step s = .fault .unwrittenInput ∧ s.pending = none ∧
      ∃ v rest, s.bus = .write 32 (.window 0x004) v :: rest ∧ opField v ∈ [0x1, 0x3, 0x4, 0x5] ∧
        ∃ j < s.inLen.toNat, Memory.get s.inBuf j = none)

/-! ### Acceptance (43_control.md) -/

/-- 43 R240: a CMD write is judged in the order busy, NOP, reserved, unwritten input, acceptance; acceptance latches the
opcode and the snapshot, and the command stays pending until the engine completes it or reset discards it. -/
def Obligations.CmdWriteJudgedInOrder : Prop :=
  (∀ (s : State) (v : Word), s.mover = .host →
    (s.busy = true → exec (decode v) s = .next { s with ovr := true }) ∧
    (s.busy = false → opField v = 0x0 → exec (decode v) s = .next s) ∧
    (s.busy = false → 0x7 ≤ (opField v).toNat → exec (decode v) s = .next { s with ill := true }) ∧
    (s.busy = false → opField v ∈ [0x1, 0x3, 0x4, 0x5] → (∃ j < s.inLen.toNat, Memory.get s.inBuf j = none) →
      exec (decode v) s = .fault .unwrittenInput) ∧
    (s.busy = false → 0x1 ≤ (opField v).toNat → (opField v).toNat ≤ 0x6 →
      (opField v ∈ [0x1, 0x3, 0x4, 0x5] → ∀ j < s.inLen.toNat, Memory.get s.inBuf j ≠ none) →
      ∃ t op S, exec (decode v) s = .next t ∧ op.opcode = opField v ∧ op.instr = decode v ∧
        S.input.length = s.inLen.toNat ∧
        (∀ j < s.inLen.toNat, ∀ b, Memory.get s.inBuf j = some b → S.input[j]? = some b) ∧
        S.ctrl = s.ctrl ∧ S.qKind = s.qKind ∧ S.qVal.extractLsb' 0 32 = s.qVal0 ∧ S.qVal.extractLsb' 32 32 = s.qVal1 ∧
        S.qVal.extractLsb' 64 32 = s.qVal2 ∧ S.qVal.extractLsb' 96 32 = s.qVal3 ∧
        t.block = { s with pending := some ⟨op, S⟩, done := false, lastOp := opField v }.block)) ∧
  (∀ (s t : State) (p : Pending), s.pending = some p → s.engineReady = none → s.bus.head? ≠ some .reset →
    step s = .next t → t.pending = some p)

/-- 43 R241: NOP does nothing; while busy its write is dropped like any CMD write. -/
def Obligations.NopChangesNothing : Prop :=
  (∀ v : Word, opField v = 0 → decode v = .nop) ∧
  ∀ s : State, (s.pending = none → exec .nop s = .next s) ∧
    (s.pending ≠ none → exec .nop s = .next { s with ovr := true })

/-- 43 R243, R244: a reserved opcode sets ILL and changes nothing else; while busy it sets OVR and not ILL. -/
def Obligations.ReservedOpcodesSetIll : Prop :=
  (∀ v : Word, 0x7 ≤ (opField v).toNat → decode v = .reserved7 ∨ ∃ op, decode v = .reserved8F op) ∧
  ∀ (s : State) (i : Instr), (i = .reserved7 ∨ ∃ op, i = .reserved8F op) →
    (s.pending = none → exec i s = .next { s with ill := true }) ∧
    (s.pending ≠ none → exec i s = .next { s with ovr := true })

/-- 70 R297: exactly the commands that read IN_BUF fault, exactly when idle with an unwritten byte below IN_LEN; so L = 0
never faults, and SVC_QUERY and CLEAR never do. -/
def Obligations.FaultExactlyOnUnwrittenInput : Prop :=
  (∀ (i : Instr) (s : State), exec i s = .fault .unwrittenInput ↔
    s.pending = none ∧ (i = .advParse ∨ i = .blkDecode ∨ i = .unpack7 ∨ i = .xsum) ∧
      ∃ j < s.inLen.toNat, Memory.get s.inBuf j = none) ∧
  (∀ (i : Instr) (s : State), (∃ t, exec i s = .next t) ∨ exec i s = .fault .unwrittenInput)

/-! ### Completion -/

/-- 40 R131: the completion of ADV_PARSE rebuilds the ADV group from empty, structure by structure, ignores what the walk
stops at (R132), clears Q_RES, and changes nothing else. -/
def Obligations.AdvParseRecordsItsStructures : Prop :=
  ∀ (s : State) (S : Snapshot) (xs : List (Byte × List Byte)) (tail : List Byte),
    s.Completes .advParse S → S.input = xs.flatMap adBytes ++ tail → (∀ x ∈ xs, x.2.length ≤ 254) →
    walkStops tail →
    exec .advParse s = .next
      { s with adv := xs.foldl (fun a x => a.dispatch x.1 x.2) Adv.empty, qRes := false, pending := none, done := true }

/-- 40 R131, R132: every payload is AD structures followed by bytes at which the walk stops, so the claim above covers
every input. -/
def Obligations.EveryPayloadSplitsIntoStructures : Prop :=
  ∀ B : List Byte, ∃ (xs : List (Byte × List Byte)) (tail : List Byte),
    B = xs.flatMap adBytes ++ tail ∧ (∀ x ∈ xs, x.2.length ≤ 254) ∧ walkStops tail ∧ 2 * xs.length ≤ B.length

/-- 40 R146, R147: SVC_QUERY tests membership among the entries of its own variant below the count; Q_KIND = 3 names no
variant, gives 0 and sets ILL. Nothing else changes. -/
def Obligations.SvcQueryTestsMembership : Prop :=
  ∀ (s : State) (S : Snapshot), s.Completes .svcQuery S →
    ∃ t, exec .svcQuery s = .next t ∧
      t = { s with qRes := t.qRes, ill := t.ill, pending := none, done := true } ∧
      (S.qKind = 0 → (t.qRes = true ↔ ∃ i < s.adv.u16.length, s.adv.u16[i]? = some (S.qVal.extractLsb' 0 16))) ∧
      (S.qKind = 1 → (t.qRes = true ↔ ∃ i < s.adv.u32.length, s.adv.u32[i]? = some (S.qVal.extractLsb' 0 32))) ∧
      (S.qKind = 2 → (t.qRes = true ↔ ∃ i < s.adv.u128.length, s.adv.u128[i]? = some S.qVal)) ∧
      (S.qKind = 3 → t.qRes = false ∧ t.ill = true) ∧ (S.qKind ≠ 3 → t.ill = s.ill)

/-- 41 R171, R172: the completion of BLK_DECODE overwrites the whole DEC group by a function of the snapshot's bytes and
CTRL, whatever the group held, and changes nothing else. -/
def Obligations.BlkDecodeOverwritesDecGroup : Prop :=
  ∀ (s : State) (S : Snapshot), s.Completes .blkDecode S →
    exec .blkDecode s = .next
      { s with dec := decodeBlock Config.params S.input S.ctrl, pending := none, done := true }

/-- 42 R220: UNPACK7 is OP 0x4 and faults on an unwritten input byte; its completion leaves NO_DECODE, zero header,
checksum and name, and the unpacked bytes with zeros after them; nothing outside the DEC group changes. -/
def Obligations.Unpack7FillsUnpBuf : Prop :=
  (∀ v : Word, opField v = 0x4 → decode v = .unpack7) ∧
  (∀ s : State, s.pending = none → (∃ j < s.inLen.toNat, Memory.get s.inBuf j = none) →
    exec .unpack7 s = .fault .unwrittenInput) ∧
  ∀ (s : State) (S : Snapshot), s.Completes .unpack7 S → S.input.length ≤ 255 →
    ∃ t, exec .unpack7 s = .next t ∧ t = { s with dec := t.dec, pending := none, done := true } ∧
      t.regValue .decRes = 0x0000000F ∧ t.regValue .decHdr = 0 ∧ t.regValue .decCsum = 0 ∧ t.regValue .decName = 0 ∧
      (t.regValue .decUnp).toNat = (unpack7 S.input).length ∧
      (∀ (w : Fin 56) (k : Fin 4), byteOf (t.regValue (.unpBuf w)) k = (unpack7 S.input).getD (4 * w + k) 0) ∧
      (unpack7 S.input).length ≤ 223

/-- 42 R225: XSUM is OP 0x5 and faults on an unwritten input byte; its completion leaves the XOR of all input bytes in
XSUM_RES and changes nothing else. -/
def Obligations.XsumFoldsItsInput : Prop :=
  (∀ v : Word, opField v = 0x5 → decode v = .xsum) ∧
  (∀ s : State, s.pending = none → (∃ j < s.inLen.toNat, Memory.get s.inBuf j = none) →
    exec .xsum s = .fault .unwrittenInput) ∧
  ∀ (s : State) (S : Snapshot), s.Completes .xsum S →
    exec .xsum s = .next { s with xsumRes := S.input.foldr (· ^^^ ·) 0, pending := none, done := true }

/-- 43 R242: CLEAR is OP 0x6; its completion clears ILL and OVR and every result register, DEC_RES to NO_DECODE; it keeps
the inputs and LAST_OP and leaves DONE = 1. -/
def Obligations.ClearRestoresOutputs : Prop :=
  (∀ v : Word, opField v = 0x6 → decode v = .clear) ∧
  ∀ (s : State) (S : Snapshot), s.Completes .clear S →
    ∃ t, exec .clear s = .next t ∧ t.ill = false ∧ t.ovr = false ∧ t.done = true ∧ t.pending = none ∧
      (∀ r : Reg, r.isResult = true → t.regValue r = if r = .decRes then 0x0000000F else 0) ∧
      t.adv = Adv.empty ∧ t.dec = Dec.cleared ∧
      t = { s with ill := t.ill, ovr := t.ovr, adv := t.adv, dec := t.dec, qRes := t.qRes, xsumRes := t.xsumRes,
                   pending := t.pending, done := t.done }

/-- 43 R245: whatever command completes, PENDING becomes none, BUSY 0, DONE 1; LAST_OP stays; ILL changes only by
SVC_QUERY with Q_KIND = 3 and by CLEAR, OVR only by CLEAR. -/
def Obligations.CompletionWritesStatus : Prop :=
  ∀ (s : State) (op : Cmd) (S : Snapshot), s.Completes op S →
    ∃ t, exec op.instr s = .next t ∧ t.pending = none ∧ t.busy = false ∧ t.done = true ∧ t.lastOp = s.lastOp ∧
      t.ill = (if op = .clear then false else if op = .svcQuery ∧ S.qKind = 3 then true else s.ill) ∧
      t.ovr = (if op = .clear then false else s.ovr)

/-- 10 R27 ("No command writes IN_BUF"), 43 R242: no command writes an input register, a byte of IN_BUF or a written bit,
whether presented, dropped or completed. -/
def Obligations.NoCommandWritesInputs : Prop :=
  ∀ (i : Instr) (s t : State), exec i s = .next t →
    (∀ a, Memory.get t.inBuf a = Memory.get s.inBuf a) ∧ t.inBuf = s.inBuf ∧ t.ctrl = s.ctrl ∧ t.inLen = s.inLen ∧
      t.qKind = s.qKind ∧ t.qVal0 = s.qVal0 ∧ t.qVal1 = s.qVal1 ∧ t.qVal2 = s.qVal2 ∧ t.qVal3 = s.qVal3 ∧
      t.bus = s.bus ∧ t.resp = s.resp

/-- 20 R77, 10 R45, R47: a decode depends on the block's bytes, IN_LEN and CTRL as they stood at acceptance and on
nothing else: two idle blocks that agree on those end with the same DEC group. -/
def Obligations.DecodeDependsOnlyOnItsBlock : Prop :=
  ∀ s₁ s₂ : State, s₁.pending = none → s₂.pending = none → s₁.inLen = s₂.inLen → s₁.ctrl = s₂.ctrl →
    (∀ j < s₁.inLen.toNat, Memory.get s₁.inBuf j ≠ none ∧ Memory.get s₁.inBuf j = Memory.get s₂.inBuf j) →
    ∃ t₁ t₂ u₁ u₂, exec .blkDecode s₁ = .next t₁ ∧ exec .blkDecode s₂ = .next t₂ ∧
      exec .blkDecode t₁.engineTurn = .next u₁ ∧ exec .blkDecode t₂.engineTurn = .next u₂ ∧
      u₁.done = true ∧ u₂.done = true ∧ u₁.dec = u₂.dec

/-! ### Advertisements (40_advertisement.md) -/

/-- 40 R134: a Flags payload of exactly one byte is kept, over any earlier one; any other changes nothing. -/
def Obligations.FlagsKeptWhenOneByte : Prop :=
  ∀ (a : Adv) (P : List Byte),
    (∀ f, P = [f] → a.dispatch 0x01 P = { a with flags := some f }) ∧ (P.length ≠ 1 → a.dispatch 0x01 P = a)

/-- 40 R135 to R137: the two types of each UUID list append the whole little-endian entries (byte i of an entry in bits
[8i+7 : 8i]) to the entries already there, in order, up to 8, 4 and 2 in all; the rest is dropped, and nothing else
changes. -/
def Obligations.UuidListsAppendUpToCapacity : Prop :=
  ∀ (a : Adv) (t : Byte) (P : List Byte),
    (t = 0x02 ∨ t = 0x03 → a.u16.length ≤ 8 → ∃ E : List (BitVec 16), E.length = P.length / 2 ∧
      (∀ j < P.length / 2, ∀ i < 2, (E.getD j 0).extractLsb' (8 * i) 8 = P.getD (2 * j + i) 0) ∧
      a.dispatch t P = { a with u16 := (a.u16 ++ E).take 8 }) ∧
    (t = 0x04 ∨ t = 0x05 → a.u32.length ≤ 4 → ∃ E : List (BitVec 32), E.length = P.length / 4 ∧
      (∀ j < P.length / 4, ∀ i < 4, (E.getD j 0).extractLsb' (8 * i) 8 = P.getD (4 * j + i) 0) ∧
      a.dispatch t P = { a with u32 := (a.u32 ++ E).take 4 }) ∧
    (t = 0x06 ∨ t = 0x07 → a.u128.length ≤ 2 → ∃ E : List (BitVec 128), E.length = P.length / 16 ∧
      (∀ j < P.length / 16, ∀ i < 16, (E.getD j 0).extractLsb' (8 * i) 8 = P.getD (16 * j + i) 0) ∧
      a.dispatch t P = { a with u128 := (a.u128 ++ E).take 2 })

/-- 40 R138: manufacturer bytes append up to 16 in all. -/
def Obligations.ManufacturerBytesAppendUpToSixteen : Prop :=
  ∀ (a : Adv) (P : List Byte), a.mfg.length ≤ 16 → a.dispatch 0xFF P = { a with mfg := (a.mfg ++ P).take 16 }

/-- 40 R139: any other type takes a slot with its first 16 payload bytes, while fewer than 4 are taken. -/
def Obligations.OtherTypesTakeASlot : Prop :=
  ∀ (a : Adv) (t : Byte) (P : List Byte), t = 0x00 ∨ (0x08 ≤ t ∧ t ≤ 0xFE) →
    (a.oth.length < 4 → a.dispatch t P = { a with oth := a.oth ++ [⟨t, P.take 16⟩] }) ∧
    (4 ≤ a.oth.length → a.dispatch t P = a)

/-- 10 R31 to R37, R49: no payload makes a count larger than its capacity, and while the counts are in range the ADV
registers show the record: each count, value, type and length in its bits, and 0 in every other bit and past a count. -/
def Obligations.ParsedCountsStayInRange : Prop :=
  (∀ B : List Byte, (parseAdv B).InRange) ∧
  ∀ s : State, s.adv.InRange →
    (let v := s.regValue .advCnt
     (v.extractLsb' 0 4).toNat = s.adv.u16.length ∧ (v.extractLsb' 8 3).toNat = s.adv.u32.length ∧
     (v.extractLsb' 16 2).toNat = s.adv.u128.length ∧ (v.extractLsb' 24 3).toNat = s.adv.oth.length ∧
     v.extractLsb' 4 4 = 0 ∧ v.extractLsb' 11 5 = 0 ∧ v.extractLsb' 18 6 = 0 ∧ v.extractLsb' 27 5 = 0) ∧
    (s.regValue .advMfgLen).toNat = s.adv.mfg.length ∧
    (s.adv.flags = none → s.regValue .advFlags = 0) ∧
    (∀ f, s.adv.flags = some f → let v := s.regValue .advFlags
      v.extractLsb' 0 8 = f ∧ v.getLsbD 8 = true ∧ v.extractLsb' 9 23 = 0) ∧
    (∀ i : Fin 8, let v := s.regValue (.advU16 i)
      v.extractLsb' 0 16 = s.adv.u16.getD i 0 ∧ v.extractLsb' 16 16 = 0) ∧
    (∀ i : Fin 4, s.regValue (.advU32 i) = s.adv.u32.getD i 0) ∧
    (∀ (k : Fin 2) (w : Fin 4), s.regValue (.advU128 k w) = (s.adv.u128.getD k 0).extractLsb' (32 * w) 32) ∧
    (∀ k : Fin 4, s.adv.oth[(k : Nat)]? = none → s.regValue (.othDesc k) = 0) ∧
    (∀ (k : Fin 4) (o : OthSlot), s.adv.oth[(k : Nat)]? = some o → let v := s.regValue (.othDesc k)
      v.extractLsb' 0 8 = o.type ∧ (v.extractLsb' 8 5).toNat = o.bytes.length ∧ v.extractLsb' 13 19 = 0)

/-- 40 R148, 95 S2 and S3: after an advertisement of one 16-bit UUID, a 16-bit query matches exactly that UUID, and no
wider query matches. -/
def Obligations.AdvertisedUuidIsFound : Prop :=
  ∀ (t : Byte) (u : BitVec 16) (V : BitVec 128), t = 0x02 ∨ t = 0x03 →
    let a := parseAdv [3, t, u.extractLsb' 0 8, u.extractLsb' 8 8]
    (a.advertises 0 V = true ↔ V.extractLsb' 0 16 = u) ∧ a.advertises 1 V = false ∧ a.advertises 2 V = false

/-! ### Blocks (41_frame_decoder.md) -/

/-- 41 R175, 30 R110: a block is rejected for its length, with DEC_RES 1, exactly when it has fewer than 23 bytes, and then
every other field of the DEC group is 0. -/
def Obligations.ShortBlocksRejected : Prop :=
  ∀ (p : Params) (B : List Byte) (ctrl : BitVec 3),
    (B.length < 23 → decodeBlock p B ctrl = { Dec.cleared with code := .rejShort } ∧
      (decodeBlock p B ctrl).resWord = 0x00000001) ∧
    (23 ≤ B.length → (decodeBlock p B ctrl).code ≠ .rejShort ∧ (decodeBlock p B ctrl).resWord ≠ 0x00000001)

/-- 41 R176: of every block of at least 23 bytes the header bytes and both checksums are captured, whatever the result. -/
def Obligations.HeaderCapturedWhateverTheResult : Prop :=
  ∀ (p : Params) (B : List Byte) (ctrl : BitVec 3), 23 ≤ B.length →
    let d := decodeBlock p B ctrl
    B[18]? = some d.seq ∧ B[20]? = some d.cmdb ∧ B[21]? = some d.sub ∧ B[6]? = some d.size ∧ B[19]? = some d.csumRx ∧
      d.csumCalc = (slice B 22 (B.length - 23)).foldr (· ^^^ ·) 0 ∧
      d.hdrWord = d.size ++ d.sub ++ d.cmdb ++ d.seq ∧ d.csumWord = 0#16 ++ d.csumCalc ++ d.csumRx

/-- 41 R180 to R186, R205, 30 R110: the first frame check that fails, in the order magic, direction, start, vendor id,
trailer, checksum, decides the code and the number DEC_RES shows for it; a frame that fails none is dispatched. -/
def Obligations.FirstFailingFrameCheckDecides : Prop :=
  ∀ (p : Params) (B : List Byte) (ctrl : BitVec 3), 23 ≤ B.length →
    let code := (decodeBlock p B ctrl).code
    let res := (decodeBlock p B ctrl).resWord
    let magicOk := ∀ j : Fin 4, byteAt B j = p.magic[j]
    let dirOk := ∀ j : Fin 2, byteAt B (4 + j) = p.dirFrom[j]
    let trailerOk := trlEn ctrl = true → byteAt B (B.length - 1) = 0xF7
    let csumOk := csumEn ctrl = true → xorFold (slice B 22 (B.length - 23)) = byteAt B 19
    (¬ magicOk → code = .rejMagic ∧ res = 0x00000002) ∧
    (magicOk → ¬ dirOk → code = .rejDir ∧ res = 0x00000003) ∧
    (magicOk → dirOk → byteAt B 16 ≠ 0xF0 → code = .rejStart ∧ res = 0x00000004) ∧
    (magicOk → dirOk → byteAt B 16 = 0xF0 → byteAt B 17 ≠ p.sysexId →
      code = .rejSysex ∧ res = 0x00000005) ∧
    (magicOk → dirOk → byteAt B 16 = 0xF0 → byteAt B 17 = p.sysexId → ¬ trailerOk →
      code = .rejTrailer ∧ res = 0x00000006) ∧
    (magicOk → dirOk → byteAt B 16 = 0xF0 → byteAt B 17 = p.sysexId → trailerOk → ¬ csumOk →
      code = .rejCsum ∧ res = 0x00000007) ∧
    (framePasses p B ctrl →
      code = .nomsgUnknown ∨ code = .rejNameBounds ∨ code = .rejNameUtf8 ∨ code = .okAmpname)

/-- 41 R200: exactly the blocks that pass the frame checks have their payload unpacked into UNP_BUF; a rejected block
leaves ULEN 0. -/
def Obligations.UnpackedExactlyWhenFramePasses : Prop :=
  ∀ (p : Params) (B : List Byte) (ctrl : BitVec 3),
    (23 ≤ B.length → framePasses p B ctrl → (decodeBlock p B ctrl).unp = unpack7 (slice B 22 (B.length - 23))) ∧
    (B.length < 23 ∨ ¬ framePasses p B ctrl → (decodeBlock p B ctrl).unp = [])

/-- 41 R201, R202, R204, 30 R110, 10 R43: the message dispatch, the name's bounds, the number DEC_RES shows for each
result, and what success leaves, in the bits of DEC_NAME too. -/
def Obligations.AmpNameDecodedWithinBounds : Prop :=
  ∀ (p : Params) (B : List Byte) (ctrl : BitVec 3), 23 ≤ B.length → framePasses p B ctrl →
    let d := decodeBlock p B ctrl
    let U := unpack7 (slice B 22 (B.length - 23))
    let o := if nameOff2 ctrl then 2 else 1
    let n := (U.getD 0 0).toNat
    d.unp = U ∧
    (¬ (byteAt B 20 = 0x03 ∧ byteAt B 21 = 0x11) → d.code = .nomsgUnknown ∧ d.resWord = 0x00000008) ∧
    (byteAt B 20 = 0x03 → byteAt B 21 = 0x11 → U = [] ∨ U.length < o + n →
      d.code = .rejNameBounds ∧ d.resWord = 0x00000009) ∧
    (byteAt B 20 = 0x03 → byteAt B 21 = 0x11 → U ≠ [] → o + n ≤ U.length → utf8Valid (slice U o n) = false →
      d.code = .rejNameUtf8 ∧ d.resWord = 0x0000000A) ∧
    (byteAt B 20 = 0x03 → byteAt B 21 = 0x11 → U ≠ [] → o + n ≤ U.length → utf8Valid (slice U o n) = true →
      d.code = .okAmpname ∧ d.resWord = 0x00000100 ∧ d.nlen.toNat = n ∧ d.nstart.toNat = o ∧
        (d.nameWord.extractLsb' 0 8).toNat = n ∧ (d.nameWord.extractLsb' 8 2).toNat = o ∧
        d.nameWord.extractLsb' 10 22 = 0 ∧ d.ampName = some (byteAt B 18, slice U o n)) ∧
    (d.code ≠ .okAmpname → d.nameWord = 0 ∧ d.msg = false ∧ d.ampName = none)

/-- 41 R203: the check accepts exactly the concatenations of rows of the table, and a name it does not accept gives
REJ_NAME_UTF8. -/
def Obligations.Utf8AcceptsExactlyTheTable : Prop :=
  (∀ N : List Byte, utf8Valid N = true ↔ ∃ qs : List (List Byte), N = qs.flatten ∧ ∀ q ∈ qs, utf8Row q) ∧
  ∀ (n : Byte) (U : List Byte) (o : Nat), o + n.toNat ≤ (n :: U).length →
    (nameCode (n :: U) o = .rejNameUtf8 ↔ utf8Valid (slice (n :: U) o n.toNat) = false)

/-- 30 R99, log entry 9: a block with the right magic and the to-device tag 0x53FE in either byte order is rejected with
REJ_DIR, whichever order the block's own tag has. -/
def Obligations.ToDeviceTagRejected : Prop :=
  ∀ (B : List Byte) (ctrl : BitVec 3), 23 ≤ B.length → (∀ j : Fin 4, byteAt B j = Config.params.magic[j]) →
    (slice B 4 2 = [0x53, 0xFE] ∨ slice B 4 2 = [0xFE, 0x53]) →
    (decodeBlock Config.params B ctrl).code = .rejDir

/-- 41 R190: the size byte is captured and not checked, and the reserved header bytes are not read. -/
def Obligations.SizeAndReservedBytesNotChecked : Prop :=
  ∀ (p : Params) (B B' : List Byte) (ctrl : BitVec 3), B'.length = B.length → 23 ≤ B.length →
    (∀ i, i < 6 ∨ 16 ≤ i → B'[i]? = B[i]?) →
    decodeBlock p B' ctrl = { decodeBlock p B ctrl with size := byteAt B' 6 }

/-- 41 R185, R186: with CSUM_EN a block that decodes stops decoding, with REJ_CSUM, when any one packed byte changes. -/
def Obligations.SingleCorruptedByteRejected : Prop :=
  ∀ (p : Params) (B : List Byte) (ctrl : BitVec 3) (i : Nat) (b : Byte), framePasses p B ctrl →
    csumEn ctrl = true → 22 ≤ i → i + 1 < B.length → B[i]? ≠ some b →
    (decodeBlock p (B.set i b) ctrl).code = .rejCsum

/-- 41 R195: the unpacker, group by group: a group is a mask byte and up to 7 data bytes; bit 7 of an output byte is its
mask bit, the rest its data byte's. -/
def Obligations.UnpackerWorksByGroups : Prop :=
  unpack7 [] = [] ∧
  (∀ (m : Byte) (D : List Byte), D.length ≤ 7 → (unpack7 (m :: D)).length = D.length ∧
    ∀ j < D.length, ∀ d, D[j]? = some d →
      ∃ u, (unpack7 (m :: D))[j]? = some u ∧ u.getLsbD 7 = m.getLsbD j ∧ u.extractLsb' 0 7 = d.extractLsb' 0 7) ∧
  (∀ (m : Byte) (D rest : List Byte), D.length = 7 → unpack7 (m :: D ++ rest) = unpack7 (m :: D) ++ unpack7 rest)

/-- 41 R196: the length law, and its bounds for a block's payload and for UNPACK7's input. -/
def Obligations.UnpackedLengthLaw : Prop :=
  ∀ P : List Byte, (unpack7 P).length = 7 * (P.length / 8) + (P.length % 8 - 1) ∧
    (P.length ≤ 232 → (unpack7 P).length ≤ 203) ∧ (P.length ≤ 255 → (unpack7 P).length ≤ 223)

/-- 41 R196, 95 S1: unpacking what the reference packer packs gives it back, for every byte list; and every packed byte is
below 0x80 (30 R94). -/
def Obligations.UnpackInvertsPack : Prop :=
  ∀ R : List Byte, unpack7 (pack7 R) = R ∧ (pack7 R).length = R.length + (R.length + 6) / 7 ∧
    ∀ b ∈ pack7 R, b.toNat < 0x80

/-- 41 R204, 95 S6: a block built around the packed name response of any valid name that fits decodes, at the completion
of BLK_DECODE with the name at offset 1, to AmpName with its sequence number and that name. -/
def Obligations.BuiltAmpNameBlockDecodes : Prop :=
  ∀ (s : State) (S : Snapshot) (seq : Byte) (N : List Byte), s.Completes .blkDecode S → nameOff2 S.ctrl = false →
    utf8Valid N = true → N.length ≤ 202 →
    S.input = buildBlock Config.params seq 0x03 0x11 (pack7 (BitVec.ofNat 8 N.length :: N)) →
    S.input.length ≤ 255 ∧ ∃ t, exec .blkDecode s = .next t ∧ t.dec.ampName = some (seq, N)

/-! ### The register window (20_memory.md) -/

/-- 10 R22: the map with its numbers, each register at its offset and each array at its base and stride; it is one to
one, and an aligned offset of no register is unmapped. -/
def Obligations.EveryRegisterHasItsOffset : Prop :=
  (∀ r : Reg, r.offset % 4 = 0 ∧ r.offset < 0x1000 ∧ regAligned r.offset = some r) ∧
  (∀ (n : Nat) (r : Reg), n % 4 = 0 → regAligned n = some r → r.offset = n) ∧
  regAligned 0x000 = some .ctrl ∧ regAligned 0x004 = some .cmd ∧ regAligned 0x008 = some .status ∧
  regAligned 0x00C = some .inLen ∧ regAligned 0x010 = some .qKind ∧
  (∀ i : Fin 4, regAligned (0x014 + 4 * (i : Nat)) = some (.qVal i)) ∧
  regAligned 0x024 = some .qRes ∧ regAligned 0x028 = some .xsumRes ∧
  regAligned 0x040 = some .advFlags ∧ regAligned 0x044 = some .advCnt ∧ regAligned 0x048 = some .advMfgLen ∧
  (∀ i : Fin 8, regAligned (0x050 + 4 * (i : Nat)) = some (.advU16 i)) ∧
  (∀ i : Fin 4, regAligned (0x070 + 4 * (i : Nat)) = some (.advU32 i)) ∧
  (∀ (k : Fin 2) (w : Fin 4), regAligned (0x080 + 16 * (k : Nat) + 4 * (w : Nat)) = some (.advU128 k w)) ∧
  (∀ w : Fin 4, regAligned (0x0A0 + 4 * (w : Nat)) = some (.advMfg w)) ∧
  (∀ k : Fin 4, regAligned (0x0C0 + 0x20 * (k : Nat)) = some (.othDesc k)) ∧
  (∀ k w : Fin 4, regAligned (0x0C4 + 0x20 * (k : Nat) + 4 * (w : Nat)) = some (.othData k w)) ∧
  regAligned 0x200 = some .decRes ∧ regAligned 0x204 = some .decHdr ∧ regAligned 0x208 = some .decCsum ∧
  regAligned 0x20C = some .decUnp ∧ regAligned 0x210 = some .decName ∧
  (∀ w : Fin 64, regAligned (0x400 + 4 * (w : Nat)) = some (.inBuf w)) ∧
  (∀ w : Fin 56, regAligned (0x600 + 4 * (w : Nat)) = some (.unpBuf w))

/-- 20 R61: exactly the byte addresses BASE to BASE + 0xFFF reach the window, at the offset A - BASE; an access to any
other address does nothing to the block. -/
def Obligations.WindowReachedByItsAddresses : Prop :=
  (∀ (A : Nat) (off : BitVec 12), placeOf A = .window off ↔ A = Config.base + off.toNat) ∧
  (∀ A : Nat, (∃ off, placeOf A = .window off) ↔ Config.base ≤ A ∧ A ≤ Config.base + 0xFFF) ∧
  (∀ (s : State) (bits A : Nat) (v : Word), ¬ (Config.base ≤ A ∧ A ≤ Config.base + 0xFFF) →
    (s.HostNext (.read bits (placeOf A)) → ∃ t, step s = .next t ∧ t.block = s.block) ∧
    (s.HostNext (.write bits (placeOf A) v) → ∃ t, step s = .next t ∧ t.block = s.block))

/-- 20 R64: an access of another width or alignment gets the bus-error response and changes nothing of the block, a write
to CMD included; a read returns 0. -/
def Obligations.BusErrorChangesNothing : Prop :=
  ∀ (s : State) (bits : Nat) (off : BitVec 12) (v : Word), bits ≠ 32 ∨ off.toNat % 4 ≠ 0 →
    (s.HostNext (.read bits (.window off)) →
      ∃ t, step s = .next t ∧ t.block = s.block ∧ t.resp = some (.readError 0)) ∧
    (s.HostNext (.write bits (.window off) v) →
      ∃ t, step s = .next t ∧ t.block = s.block ∧ t.resp = some .writeError)

/-- 20 R65: a good access to an unmapped offset reads 0 and ignores a write, without an error. -/
def Obligations.UnmappedOffsetsReadZero : Prop :=
  ∀ (s : State) (off : BitVec 12) (v : Word), off.toNat % 4 = 0 → (∀ r : Reg, r.offset ≠ off.toNat) →
    (s.HostNext (.read 32 (.window off)) →
      ∃ t, step s = .next t ∧ t.block = s.block ∧ t.resp = some (.readOk 0)) ∧
    (s.HostNext (.write 32 (.window off) v) →
      ∃ t, step s = .next t ∧ t.block = s.block ∧ t.resp = some .writeOk)

/-- 20 R67: a write to a read-only register is ignored, busy or not, and CMD reads 0. -/
def Obligations.ReadOnlyWritesIgnored : Prop :=
  ∀ (s : State) (r : Reg) (v : Word),
    (r = .status ∨ r.isResult = true → s.HostNext (hostWrite (BitVec.ofNat 12 r.offset) v) →
      ∃ t, step s = .next t ∧ t.block = s.block ∧ t.resp = some .writeOk) ∧
    (s.HostNext (hostRead 0x004) → ∃ t, step s = .next t ∧ t.resp = some (.readOk 0))

/-- 20 R71: a write to CMD or to an input register while a command is pending is dropped and sets OVR. -/
def Obligations.BusyInputWritesDropped : Prop :=
  ∀ (s : State) (r : Reg) (v : Word),
    (r = .cmd ∨ r = .ctrl ∨ r = .inLen ∨ r = .qKind ∨ (∃ i, r = .qVal i) ∨ ∃ w, r = .inBuf w) →
    s.pending ≠ none → s.HostNext (hostWrite (BitVec.ofNat 12 r.offset) v) →
    ∃ t, step s = .next t ∧ t.block = { s with ovr := true }.block

/-- 10 R23, R26, R28, 20 R66, R69, R70, R74: on an idle block a write of a register of the host's stores the bits it has
and changes nothing else of the block; the register reads back what was written, its reserved bits as 0, and that read
changes nothing. -/
def Obligations.InputRegistersReadBack : Prop :=
  ∀ (s : State) (r : Reg) (v mask : Word) (rest : List HostStep),
    (r = .ctrl ∧ mask = 0x7) ∨ (r = .inLen ∧ mask = 0xFF) ∨ (r = .qKind ∧ mask = 0x3) ∨
      ((∃ i, r = .qVal i) ∨ ∃ w, r = .inBuf w) ∧ mask = 0xFFFFFFFF →
    s.pending = none →
    s.bus = hostWrite (BitVec.ofNat 12 r.offset) v :: hostRead (BitVec.ofNat 12 r.offset) :: rest →
    ∃ t u, step s = .next t ∧ step t = .next u ∧ u.resp = some (.readOk (v &&& mask)) ∧ u.bus = rest ∧
      u.block = t.block ∧
      (r = .ctrl → t.block = { s with ctrl := v.extractLsb' 0 3 }.block) ∧
      (r = .inLen → t.block = { s with inLen := v.extractLsb' 0 8 }.block) ∧
      (r = .qKind → t.block = { s with qKind := v.extractLsb' 0 2 }.block) ∧
      (r = .qVal 0 → t.block = { s with qVal0 := v }.block) ∧ (r = .qVal 1 → t.block = { s with qVal1 := v }.block) ∧
      (r = .qVal 2 → t.block = { s with qVal2 := v }.block) ∧ (r = .qVal 3 → t.block = { s with qVal3 := v }.block) ∧
      (∀ w, r = .inBuf w → t.block = { s with inBuf := t.inBuf }.block ∧
        ∀ a : Nat, a < 4 * w ∨ 4 * w + 4 ≤ a → Memory.get t.inBuf a = Memory.get s.inBuf a)

/-- 20 R69: a write of IN_BUF word w on an idle block stores its four bytes, lowest first, at 4w to 4w+3 and marks them
written; every other byte, and all else of the block, keeps its value. -/
def Obligations.InBufWordWriteStoresFourBytes : Prop :=
  ∀ (s : State) (w : Fin 64) (v : Word), s.pending = none →
    s.HostNext (hostWrite (BitVec.ofNat 12 (0x400 + 4 * w)) v) →
    ∃ t, step s = .next t ∧ t.block = { s with inBuf := t.inBuf }.block ∧
      (∀ k : Fin 4, Memory.get t.inBuf (4 * w + k) = some (v.extractLsb' (8 * k) 8)) ∧
      (∀ a : Nat, a < 4 * w ∨ 4 * w + 4 ≤ a → Memory.get t.inBuf a = Memory.get s.inBuf a)

/-- 20 R70: a read of an IN_BUF word, busy or not, returns each written byte exactly and changes nothing of the block; a
byte never written is any value. -/
def Obligations.InBufReadsWrittenBytes : Prop :=
  ∀ (s : State) (w : Fin 64), s.HostNext (hostRead (BitVec.ofNat 12 (0x400 + 4 * w))) →
    ∃ t v, step s = .next t ∧ t.block = s.block ∧ t.resp = some (.readOk v) ∧
      ∀ (k : Fin 4) (b : Byte), Memory.get s.inBuf (4 * w + k) = some b → v.extractLsb' (8 * k) 8 = b

/-- 20 R72: while a command is pending a result register reads as a free value (log entry 4) and any other register as it
stands; while none is pending every register reads as it stands. 10 R23, R24, R26, R28, R29, R39 to R44, R49: how the registers
outside the ADV group and the byte arrays stand, each field in its bits, reserved bits 0. 30 R110: the numbers of the
result codes. -/
def Obligations.RegisterReadAnswers : Prop :=
  (∀ (s : State) (r : Reg), s.HostNext (hostRead (BitVec.ofNat 12 r.offset)) →
    ∃ t, step s = .next t ∧ t.block = s.block ∧
      (s.pending = none ∨ r.isResult = false → t.resp = some (.readOk (s.hostTurn.regValue r))) ∧
      (s.pending ≠ none → r.isResult = true → t.resp = some (.readOk (Config.freeWord s.draws)))) ∧
  ∀ s : State,
    (let v := s.regValue .ctrl
     v.getLsbD 0 = csumEn s.ctrl ∧ v.getLsbD 1 = nameOff2 s.ctrl ∧ v.getLsbD 2 = trlEn s.ctrl ∧
     v.extractLsb' 3 29 = 0) ∧
    s.regValue .cmd = 0 ∧
    ((s.regValue .inLen).extractLsb' 0 8 = s.inLen ∧ (s.regValue .inLen).extractLsb' 8 24 = 0) ∧
    ((s.regValue .qKind).extractLsb' 0 2 = s.qKind ∧ (s.regValue .qKind).extractLsb' 2 30 = 0) ∧
    s.regValue (.qVal 0) = s.qVal0 ∧ s.regValue (.qVal 1) = s.qVal1 ∧ s.regValue (.qVal 2) = s.qVal2 ∧
    s.regValue (.qVal 3) = s.qVal3 ∧
    ((s.regValue .qRes).getLsbD 0 = s.qRes ∧ (s.regValue .qRes).extractLsb' 1 31 = 0) ∧
    ((s.regValue .xsumRes).extractLsb' 0 8 = s.xsumRes ∧ (s.regValue .xsumRes).extractLsb' 8 24 = 0) ∧
    s.regValue .decRes = s.dec.resWord ∧
    (let v := s.regValue .decRes
     v.extractLsb' 0 4 = s.dec.code.value ∧ ((v.extractLsb' 0 4).toNat ≤ 10 ∨ (v.extractLsb' 0 4).toNat = 15) ∧
      (v.getLsbD 8 = true ↔ s.dec.code = .okAmpname) ∧ v.extractLsb' 4 4 = 0 ∧ v.extractLsb' 9 23 = 0) ∧
    (let v := s.regValue .decHdr
     v.extractLsb' 0 8 = s.dec.seq ∧ v.extractLsb' 8 8 = s.dec.cmdb ∧ v.extractLsb' 16 8 = s.dec.sub ∧
     v.extractLsb' 24 8 = s.dec.size) ∧
    (let v := s.regValue .decCsum
     v.extractLsb' 0 8 = s.dec.csumRx ∧ v.extractLsb' 8 8 = s.dec.csumCalc ∧ v.extractLsb' 16 16 = 0) ∧
    (s.dec.unp.length ≤ 223 → (s.regValue .decUnp).toNat = s.dec.unp.length) ∧
    s.regValue .decName = s.dec.nameWord ∧
    (let v := s.regValue .decName
     v.extractLsb' 0 8 = s.dec.nlen ∧ v.extractLsb' 8 2 = s.dec.nstart ∧ v.extractLsb' 10 22 = 0) ∧
    DecCode.okAmpname.value = 0 ∧ DecCode.rejShort.value = 1 ∧ DecCode.rejMagic.value = 2 ∧ DecCode.rejDir.value = 3 ∧
    DecCode.rejStart.value = 4 ∧ DecCode.rejSysex.value = 5 ∧ DecCode.rejTrailer.value = 6 ∧
    DecCode.rejCsum.value = 7 ∧ DecCode.nomsgUnknown.value = 8 ∧ DecCode.rejNameBounds.value = 9 ∧
    DecCode.rejNameUtf8.value = 10 ∧ DecCode.noDecode.value = 15

/-- 20 R74: no read, good or not, mapped or not, in the window or elsewhere, has a side effect. -/
def Obligations.ReadsHaveNoSideEffect : Prop :=
  ∀ (s : State) (bits : Nat) (place : Place), s.HostNext (.read bits place) →
    ∃ t, step s = .next t ∧ t.block = s.block

/-- 20 R68: the byte arrays are packed little-endian: byte 4w+k stands in bits [8k+7 : 8k] of word w. -/
def Obligations.ByteArraysPackedLittleEndian : Prop :=
  ∀ s : State,
    (∀ (w : Fin 56) (k : Fin 4), (s.regValue (.unpBuf w)).extractLsb' (8 * k) 8 = s.dec.unp.getD (4 * w + k) 0) ∧
    (∀ (w k : Fin 4), (s.regValue (.advMfg w)).extractLsb' (8 * k) 8 = s.adv.mfg.getD (4 * w + k) 0) ∧
    (∀ (i w k : Fin 4), (s.regValue (.othData i w)).extractLsb' (8 * k) 8 =
      ((s.adv.oth[(i : Nat)]?.map OthSlot.bytes).getD []).getD (4 * w + k) 0) ∧
    (∀ (w : Fin 64) (k : Fin 4) (b : Byte), Memory.get s.inBuf (4 * w + k) = some b →
      (s.regValue (.inBuf w)).extractLsb' (8 * k) 8 = b)

/-- 10 R25: the fields of STATUS, and its reserved bits 0. -/
def Obligations.StatusFieldsInPlace : Prop :=
  ∀ s : State, let v := s.regValue .status
    v.getLsbD 0 = s.pending.isSome ∧ v.getLsbD 1 = s.done ∧ v.getLsbD 2 = s.ill ∧ v.getLsbD 3 = s.ovr ∧
      v.extractLsb' 4 4 = s.lastOp ∧ v.extractLsb' 8 24 = 0

/-! ### Reset (70_reset_and_hazards.md) -/

/-- 10 R48: what every register reads after reset, no byte written, nothing pending. -/
def Obligations.ResetLeavesTheStatedValues : Prop :=
  (∀ r : Reg, (∀ w, r ≠ .inBuf w) →
    State.reset.regValue r = if r = .ctrl then 0x00000001 else if r = .decRes then 0x0000000F else 0) ∧
  (∀ j, Memory.get State.reset.inBuf j = none) ∧ State.reset.pending = none

/-- 70 R290, R291: reset gives the block its reset state whatever it held; a pending command is discarded. That the host's
later steps stay in the list is the model's own choice (log entries 1 and 14). -/
def Obligations.ResetDiscardsPendingCommand : Prop :=
  ∀ s : State, s.HostNext .reset →
    ∃ t, step s = .next t ∧ t.block = State.reset.block ∧ t.pending = none ∧ t.bus = s.bus.tail

/-! ### Rules over all steps -/

/-- 10 R49, R25, R45, R46: every step keeps the invariant: counts and lengths in range, DEC_NAME only with OK_AMPNAME,
IN_BUF canonical, LAST_OP legal, DONE and BUSY exclusive, and a pending snapshot equal to the registers it was taken
from. -/
def Obligations.StepKeepsInvariant : Prop := ∀ s t : State, s.Inv → step s = .next t → t.Inv

/-- The invariant holds after reset (10 R48). -/
def Obligations.ResetMeetsInvariant : Prop := State.reset.Inv

/-- 60 R263, D43: a sticky bit that is set stays set through every step but the completion of CLEAR and reset. -/
def Obligations.StickyBitsClearedOnlyByClearAndReset : Prop :=
  ∀ s t : State, step s = .next t →
    (∃ p, s.engineReady = some p ∧ p.op = .clear) ∨ s.HostNext .reset ∨
      ((s.ill = true → t.ill = true) ∧ (s.ovr = true → t.ovr = true))

/-- 70 R304, 10 R30, R38: results change only at a completion, by a command that writes them, or at reset. -/
def Obligations.ResultsStableBetweenCompletions : Prop :=
  ∀ s t : State, step s = .next t → ¬ s.HostNext .reset →
    ((∀ p, s.engineReady = some p → p.op ∉ [.advParse, .clear]) → t.adv = s.adv) ∧
    ((∀ p, s.engineReady = some p → p.op ∉ [.blkDecode, .unpack7, .clear]) → t.dec = s.dec) ∧
    ((∀ p, s.engineReady = some p → p.op ∉ [.advParse, .svcQuery, .clear]) → t.qRes = s.qRes) ∧
    ((∀ p, s.engineReady = some p → p.op ∉ [.xsum, .clear]) → t.xsumRes = s.xsumRes)

/-- 70 R303, log entry 3: an accepted command completes after at most as many further host steps as its latency, unless a
reset discards it. -/
def Obligations.PendingCommandCompletes : Prop :=
  ∀ (s : State) (p : Pending), s.pending = some p → HostStep.reset ∉ s.bus →
    ∃ n ≤ s.wait + 1, ∃ t, core.run n s = .next t ∧ t.pending = none ∧ t.done = true

/-- 30 R113, 70 R293: running LOAD of at most 255 bytes on an idle block leaves its bytes, written, in IN_BUF, 0 in the rest
of the last word, every other byte as it was and their number in IN_LEN, and changes nothing else of the block; so no
command on them faults. -/
def Obligations.LoadPlacesTheInput : Prop :=
  ∀ (s : State) (B : List Byte) (rest : List HostStep), B.length ≤ 255 → s.pending = none →
    s.bus = hostLoad B ++ rest →
    ∃ t : State, core.run (hostLoad B).length s = .next t ∧ t.bus = rest ∧ t.pending = none ∧
      t.inLen.toNat = B.length ∧ (∀ j < B.length, Memory.get t.inBuf j = B[j]?) ∧
      (∀ j : Nat, B.length ≤ j → j < 4 * ((B.length + 3) / 4) → Memory.get t.inBuf j = some 0) ∧
      (∀ j : Nat, 4 * ((B.length + 3) / 4) ≤ j → Memory.get t.inBuf j = Memory.get s.inBuf j) ∧
      t.block = { s with inBuf := t.inBuf, inLen := t.inLen }.block ∧
      t.snapshot.input = B ∧ t.inputWritten = true
end

