-- ==== Sys2Proof/Laws/Memory.lean ====
section
/-! SUPPORT. IN_BUF: reading after writing, and that every operation keeps the canonical form. -/

namespace Sys2Proof.Machine

@[simp] theorem Memory.get_nil (a : Nat) : Memory.get [] a = none := rfl

/-- A byte reads back after it is written. -/
@[simp] theorem Memory.get_put_same (m : Memory) (a : Nat) (b : Byte) : Memory.get (Memory.put m a b) a = some b := by
  induction m with
  | nil => simp [Memory.put, Memory.get]
  | cons c m ih =>
    obtain ⟨k, x⟩ := c
    simp only [Memory.put]
    split
    · simp [Memory.get]
    · split
      · simp [Memory.get]
      · simp only [Memory.get]
        rw [if_neg (by omega)]
        exact ih

/-- Writing one byte leaves every other byte, and whether it was written, alone. -/
theorem Memory.get_put_other (m : Memory) {a j : Nat} (b : Byte) (h : j ≠ a) :
    Memory.get (Memory.put m a b) j = Memory.get m j := by
  induction m with
  | nil => simp [Memory.put, Memory.get, Ne.symm h]
  | cons c m ih =>
    obtain ⟨k, x⟩ := c
    simp only [Memory.put]
    split
    · simp [Memory.get, Ne.symm h]
    · split
      · subst_vars
        simp [Memory.get, Ne.symm h]
      · simp only [Memory.get]
        split
        · rfl
        · exact ih

/-- Reading any byte after one was written. -/
theorem Memory.get_put (m : Memory) (a j : Nat) (b : Byte) :
    Memory.get (Memory.put m a b) j = if j = a then some b else Memory.get m j := by
  split
  · subst_vars; simp
  · exact Memory.get_put_other m b ‹_›

/-- A list rising from `lo` also rises from any lower bound. -/
theorem Memory.risingFrom_mono {m : Memory} {lo hi : Nat} (h : lo ≤ hi) (hm : Memory.risingFrom hi m = true) :
    Memory.risingFrom lo m = true := by
  cases m with
  | nil => rfl
  | cons c m =>
    simp only [Memory.risingFrom, Bool.and_eq_true, decide_eq_true_eq] at hm ⊢
    exact ⟨⟨le_trans h hm.1.1, hm.1.2⟩, hm.2⟩

/-- Writing at `a` keeps the addresses rising from any bound not above `a`. -/
theorem Memory.risingFrom_put {m : Memory} {lo a : Nat} (b : Byte) (hlo : lo ≤ a) (ha : a < 256)
    (hm : Memory.risingFrom lo m = true) : Memory.risingFrom lo (Memory.put m a b) = true := by
  induction m generalizing lo with
  | nil => simp [Memory.put, Memory.risingFrom, hlo, ha]
  | cons c m ih =>
    obtain ⟨k, x⟩ := c
    simp only [Memory.risingFrom, Bool.and_eq_true, decide_eq_true_eq] at hm
    simp only [Memory.put]
    split
    · simp only [Memory.risingFrom, Bool.and_eq_true, decide_eq_true_eq]
      exact ⟨⟨hlo, ha⟩, ⟨by omega, hm.1.2⟩, hm.2⟩
    · split
      · subst_vars
        simp only [Memory.risingFrom, Bool.and_eq_true, decide_eq_true_eq]
        exact ⟨⟨hlo, ha⟩, hm.2⟩
      · simp only [Memory.risingFrom, Bool.and_eq_true, decide_eq_true_eq]
        exact ⟨hm.1, ih (by omega) hm.2⟩

/-- Writing a byte of IN_BUF keeps the canonical form. -/
theorem Memory.wf_put {m : Memory} {a : Nat} (b : Byte) (ha : a < 256) (hm : Memory.wf m = true) :
    Memory.wf (Memory.put m a b) = true := Memory.risingFrom_put b (Nat.zero_le a) ha hm

/-- IN_BUF after reset is canonical: nothing was written. -/
theorem Memory.wf_reset : Memory.wf State.reset.inBuf = true := rfl

/-- In canonical form no byte outside IN_BUF is listed. -/
theorem Memory.get_eq_none_of_ge {m : Memory} {lo a : Nat} (hm : Memory.risingFrom lo m = true) (ha : 256 ≤ a) :
    Memory.get m a = none := by
  induction m generalizing lo with
  | nil => rfl
  | cons c m ih =>
    simp only [Memory.risingFrom, Bool.and_eq_true, decide_eq_true_eq] at hm
    simp only [Memory.get]
    rw [if_neg (by omega)]
    exact ih hm.2

/-- In canonical form nothing below the bound is listed. -/
theorem Memory.get_eq_none_of_lt {m : Memory} {lo a : Nat} (hm : Memory.risingFrom lo m = true) (ha : a < lo) :
    Memory.get m a = none := by
  induction m generalizing lo with
  | nil => rfl
  | cons c m ih =>
    simp only [Memory.risingFrom, Bool.and_eq_true, decide_eq_true_eq] at hm
    simp only [Memory.get]
    rw [if_neg (by omega)]
    exact ih hm.2 (by omega)

/-- Two canonical lists that read the same are the same data. -/
theorem Memory.ext_of_get {m n : Memory} {lo : Nat} (hm : Memory.risingFrom lo m = true)
    (hn : Memory.risingFrom lo n = true) (h : ∀ a, Memory.get m a = Memory.get n a) : m = n := by
  induction m generalizing lo n with
  | nil =>
    cases n with
    | nil => rfl
    | cons c n => simpa [Memory.get] using h c.1
  | cons c m ih =>
    cases n with
    | nil => simpa [Memory.get] using h c.1
    | cons d n =>
      obtain ⟨k, x⟩ := c
      obtain ⟨l, y⟩ := d
      simp only [Memory.risingFrom, Bool.and_eq_true, decide_eq_true_eq] at hm hn
      have hkl : k = l := by
        by_contra hne
        rcases Nat.lt_or_gt_of_ne hne with hlt | hlt
        · have := h k
          simp only [Memory.get, if_true] at this
          rw [if_neg (by omega), Memory.get_eq_none_of_lt hn.2 (by omega)] at this
          cases this
        · have := h l
          simp only [Memory.get, if_true] at this
          rw [if_neg (by omega), Memory.get_eq_none_of_lt hm.2 (by omega)] at this
          cases this
      subst hkl
      have hx : x = y := by simpa [Memory.get] using h k
      subst hx
      congr 1
      refine ih hm.2 hn.2 fun a => ?_
      by_cases hak : k = a
      · subst hak
        rw [Memory.get_eq_none_of_lt hm.2 (by omega), Memory.get_eq_none_of_lt hn.2 (by omega)]
      · simpa [Memory.get, hak] using h a

end Sys2Proof.Machine
end

