-- ==== Sys2Proof/Laws/State.lean ====
section
/-! SUPPORT. One lemma per field per update of the state: what each named update of State leaves in each field. -/

namespace Sys2Proof.Machine

section FieldLemmas

variable (s : State)

@[simp] theorem State.dropWrite_ctrl : s.dropWrite.ctrl = s.ctrl := rfl
@[simp] theorem State.dropWrite_done : s.dropWrite.done = s.done := rfl
@[simp] theorem State.dropWrite_ill : s.dropWrite.ill = s.ill := rfl
@[simp] theorem State.dropWrite_ovr : s.dropWrite.ovr = true := rfl
@[simp] theorem State.dropWrite_lastOp : s.dropWrite.lastOp = s.lastOp := rfl
@[simp] theorem State.dropWrite_inLen : s.dropWrite.inLen = s.inLen := rfl
@[simp] theorem State.dropWrite_inBuf : s.dropWrite.inBuf = s.inBuf := rfl
@[simp] theorem State.dropWrite_qKind : s.dropWrite.qKind = s.qKind := rfl
@[simp] theorem State.dropWrite_qVal0 : s.dropWrite.qVal0 = s.qVal0 := rfl
@[simp] theorem State.dropWrite_qVal1 : s.dropWrite.qVal1 = s.qVal1 := rfl
@[simp] theorem State.dropWrite_qVal2 : s.dropWrite.qVal2 = s.qVal2 := rfl
@[simp] theorem State.dropWrite_qVal3 : s.dropWrite.qVal3 = s.qVal3 := rfl
@[simp] theorem State.dropWrite_qRes : s.dropWrite.qRes = s.qRes := rfl
@[simp] theorem State.dropWrite_xsumRes : s.dropWrite.xsumRes = s.xsumRes := rfl
@[simp] theorem State.dropWrite_adv : s.dropWrite.adv = s.adv := rfl
@[simp] theorem State.dropWrite_dec : s.dropWrite.dec = s.dec := rfl
@[simp] theorem State.dropWrite_pending : s.dropWrite.pending = s.pending := rfl
@[simp] theorem State.dropWrite_bus : s.dropWrite.bus = s.bus := rfl
@[simp] theorem State.dropWrite_resp : s.dropWrite.resp = s.resp := rfl
@[simp] theorem State.dropWrite_mover : s.dropWrite.mover = s.mover := rfl
@[simp] theorem State.dropWrite_wait : s.dropWrite.wait = s.wait := rfl
@[simp] theorem State.dropWrite_draws : s.dropWrite.draws = s.draws := rfl

@[simp] theorem State.markIllegal_ctrl : s.markIllegal.ctrl = s.ctrl := rfl
@[simp] theorem State.markIllegal_done : s.markIllegal.done = s.done := rfl
@[simp] theorem State.markIllegal_ill : s.markIllegal.ill = true := rfl
@[simp] theorem State.markIllegal_ovr : s.markIllegal.ovr = s.ovr := rfl
@[simp] theorem State.markIllegal_lastOp : s.markIllegal.lastOp = s.lastOp := rfl
@[simp] theorem State.markIllegal_inLen : s.markIllegal.inLen = s.inLen := rfl
@[simp] theorem State.markIllegal_inBuf : s.markIllegal.inBuf = s.inBuf := rfl
@[simp] theorem State.markIllegal_qKind : s.markIllegal.qKind = s.qKind := rfl
@[simp] theorem State.markIllegal_qVal0 : s.markIllegal.qVal0 = s.qVal0 := rfl
@[simp] theorem State.markIllegal_qVal1 : s.markIllegal.qVal1 = s.qVal1 := rfl
@[simp] theorem State.markIllegal_qVal2 : s.markIllegal.qVal2 = s.qVal2 := rfl
@[simp] theorem State.markIllegal_qVal3 : s.markIllegal.qVal3 = s.qVal3 := rfl
@[simp] theorem State.markIllegal_qRes : s.markIllegal.qRes = s.qRes := rfl
@[simp] theorem State.markIllegal_xsumRes : s.markIllegal.xsumRes = s.xsumRes := rfl
@[simp] theorem State.markIllegal_adv : s.markIllegal.adv = s.adv := rfl
@[simp] theorem State.markIllegal_dec : s.markIllegal.dec = s.dec := rfl
@[simp] theorem State.markIllegal_pending : s.markIllegal.pending = s.pending := rfl
@[simp] theorem State.markIllegal_bus : s.markIllegal.bus = s.bus := rfl
@[simp] theorem State.markIllegal_resp : s.markIllegal.resp = s.resp := rfl
@[simp] theorem State.markIllegal_mover : s.markIllegal.mover = s.mover := rfl
@[simp] theorem State.markIllegal_wait : s.markIllegal.wait = s.wait := rfl
@[simp] theorem State.markIllegal_draws : s.markIllegal.draws = s.draws := rfl

@[simp] theorem State.accept_ctrl (op : Cmd) : (s.accept op).ctrl = s.ctrl := rfl
@[simp] theorem State.accept_done (op : Cmd) : (s.accept op).done = false := rfl
@[simp] theorem State.accept_ill (op : Cmd) : (s.accept op).ill = s.ill := rfl
@[simp] theorem State.accept_ovr (op : Cmd) : (s.accept op).ovr = s.ovr := rfl
@[simp] theorem State.accept_lastOp (op : Cmd) : (s.accept op).lastOp = op.opcode := rfl
@[simp] theorem State.accept_inLen (op : Cmd) : (s.accept op).inLen = s.inLen := rfl
@[simp] theorem State.accept_inBuf (op : Cmd) : (s.accept op).inBuf = s.inBuf := rfl
@[simp] theorem State.accept_qKind (op : Cmd) : (s.accept op).qKind = s.qKind := rfl
@[simp] theorem State.accept_qVal0 (op : Cmd) : (s.accept op).qVal0 = s.qVal0 := rfl
@[simp] theorem State.accept_qVal1 (op : Cmd) : (s.accept op).qVal1 = s.qVal1 := rfl
@[simp] theorem State.accept_qVal2 (op : Cmd) : (s.accept op).qVal2 = s.qVal2 := rfl
@[simp] theorem State.accept_qVal3 (op : Cmd) : (s.accept op).qVal3 = s.qVal3 := rfl
@[simp] theorem State.accept_qRes (op : Cmd) : (s.accept op).qRes = s.qRes := rfl
@[simp] theorem State.accept_xsumRes (op : Cmd) : (s.accept op).xsumRes = s.xsumRes := rfl
@[simp] theorem State.accept_adv (op : Cmd) : (s.accept op).adv = s.adv := rfl
@[simp] theorem State.accept_dec (op : Cmd) : (s.accept op).dec = s.dec := rfl
@[simp] theorem State.accept_pending (op : Cmd) : (s.accept op).pending = some { op := op, snap := s.snapshot } := rfl
@[simp] theorem State.accept_bus (op : Cmd) : (s.accept op).bus = s.bus := rfl
@[simp] theorem State.accept_resp (op : Cmd) : (s.accept op).resp = s.resp := rfl
@[simp] theorem State.accept_mover (op : Cmd) : (s.accept op).mover = s.mover := rfl
@[simp] theorem State.accept_wait (op : Cmd) : (s.accept op).wait = Config.latency s.draws := rfl
@[simp] theorem State.accept_draws (op : Cmd) : (s.accept op).draws = s.draws + 256 := rfl

@[simp] theorem State.finish_ctrl : s.finish.ctrl = s.ctrl := rfl
@[simp] theorem State.finish_done : s.finish.done = true := rfl
@[simp] theorem State.finish_ill : s.finish.ill = s.ill := rfl
@[simp] theorem State.finish_ovr : s.finish.ovr = s.ovr := rfl
@[simp] theorem State.finish_lastOp : s.finish.lastOp = s.lastOp := rfl
@[simp] theorem State.finish_inLen : s.finish.inLen = s.inLen := rfl
@[simp] theorem State.finish_inBuf : s.finish.inBuf = s.inBuf := rfl
@[simp] theorem State.finish_qKind : s.finish.qKind = s.qKind := rfl
@[simp] theorem State.finish_qVal0 : s.finish.qVal0 = s.qVal0 := rfl
@[simp] theorem State.finish_qVal1 : s.finish.qVal1 = s.qVal1 := rfl
@[simp] theorem State.finish_qVal2 : s.finish.qVal2 = s.qVal2 := rfl
@[simp] theorem State.finish_qVal3 : s.finish.qVal3 = s.qVal3 := rfl
@[simp] theorem State.finish_qRes : s.finish.qRes = s.qRes := rfl
@[simp] theorem State.finish_xsumRes : s.finish.xsumRes = s.xsumRes := rfl
@[simp] theorem State.finish_adv : s.finish.adv = s.adv := rfl
@[simp] theorem State.finish_dec : s.finish.dec = s.dec := rfl
@[simp] theorem State.finish_pending : s.finish.pending = none := rfl
@[simp] theorem State.finish_bus : s.finish.bus = s.bus := rfl
@[simp] theorem State.finish_resp : s.finish.resp = s.resp := rfl
@[simp] theorem State.finish_mover : s.finish.mover = s.mover := rfl
@[simp] theorem State.finish_wait : s.finish.wait = s.wait := rfl
@[simp] theorem State.finish_draws : s.finish.draws = s.draws := rfl

@[simp] theorem State.hostTurn_ctrl : s.hostTurn.ctrl = s.ctrl := rfl
@[simp] theorem State.hostTurn_done : s.hostTurn.done = s.done := rfl
@[simp] theorem State.hostTurn_ill : s.hostTurn.ill = s.ill := rfl
@[simp] theorem State.hostTurn_ovr : s.hostTurn.ovr = s.ovr := rfl
@[simp] theorem State.hostTurn_lastOp : s.hostTurn.lastOp = s.lastOp := rfl
@[simp] theorem State.hostTurn_inLen : s.hostTurn.inLen = s.inLen := rfl
@[simp] theorem State.hostTurn_inBuf : s.hostTurn.inBuf = s.inBuf := rfl
@[simp] theorem State.hostTurn_qKind : s.hostTurn.qKind = s.qKind := rfl
@[simp] theorem State.hostTurn_qVal0 : s.hostTurn.qVal0 = s.qVal0 := rfl
@[simp] theorem State.hostTurn_qVal1 : s.hostTurn.qVal1 = s.qVal1 := rfl
@[simp] theorem State.hostTurn_qVal2 : s.hostTurn.qVal2 = s.qVal2 := rfl
@[simp] theorem State.hostTurn_qVal3 : s.hostTurn.qVal3 = s.qVal3 := rfl
@[simp] theorem State.hostTurn_qRes : s.hostTurn.qRes = s.qRes := rfl
@[simp] theorem State.hostTurn_xsumRes : s.hostTurn.xsumRes = s.xsumRes := rfl
@[simp] theorem State.hostTurn_adv : s.hostTurn.adv = s.adv := rfl
@[simp] theorem State.hostTurn_dec : s.hostTurn.dec = s.dec := rfl
@[simp] theorem State.hostTurn_pending : s.hostTurn.pending = s.pending := rfl
@[simp] theorem State.hostTurn_bus : s.hostTurn.bus = s.bus.tail := rfl
@[simp] theorem State.hostTurn_resp : s.hostTurn.resp = s.resp := rfl
@[simp] theorem State.hostTurn_mover : s.hostTurn.mover = .host := rfl
@[simp] theorem State.hostTurn_wait : s.hostTurn.wait = s.wait - 1 := rfl
@[simp] theorem State.hostTurn_draws : s.hostTurn.draws = s.draws := rfl

@[simp] theorem State.engineTurn_ctrl : s.engineTurn.ctrl = s.ctrl := rfl
@[simp] theorem State.engineTurn_done : s.engineTurn.done = s.done := rfl
@[simp] theorem State.engineTurn_ill : s.engineTurn.ill = s.ill := rfl
@[simp] theorem State.engineTurn_ovr : s.engineTurn.ovr = s.ovr := rfl
@[simp] theorem State.engineTurn_lastOp : s.engineTurn.lastOp = s.lastOp := rfl
@[simp] theorem State.engineTurn_inLen : s.engineTurn.inLen = s.inLen := rfl
@[simp] theorem State.engineTurn_inBuf : s.engineTurn.inBuf = s.inBuf := rfl
@[simp] theorem State.engineTurn_qKind : s.engineTurn.qKind = s.qKind := rfl
@[simp] theorem State.engineTurn_qVal0 : s.engineTurn.qVal0 = s.qVal0 := rfl
@[simp] theorem State.engineTurn_qVal1 : s.engineTurn.qVal1 = s.qVal1 := rfl
@[simp] theorem State.engineTurn_qVal2 : s.engineTurn.qVal2 = s.qVal2 := rfl
@[simp] theorem State.engineTurn_qVal3 : s.engineTurn.qVal3 = s.qVal3 := rfl
@[simp] theorem State.engineTurn_qRes : s.engineTurn.qRes = s.qRes := rfl
@[simp] theorem State.engineTurn_xsumRes : s.engineTurn.xsumRes = s.xsumRes := rfl
@[simp] theorem State.engineTurn_adv : s.engineTurn.adv = s.adv := rfl
@[simp] theorem State.engineTurn_dec : s.engineTurn.dec = s.dec := rfl
@[simp] theorem State.engineTurn_pending : s.engineTurn.pending = s.pending := rfl
@[simp] theorem State.engineTurn_bus : s.engineTurn.bus = s.bus := rfl
@[simp] theorem State.engineTurn_resp : s.engineTurn.resp = s.resp := rfl
@[simp] theorem State.engineTurn_mover : s.engineTurn.mover = .engine := rfl
@[simp] theorem State.engineTurn_wait : s.engineTurn.wait = s.wait := rfl
@[simp] theorem State.engineTurn_draws : s.engineTurn.draws = s.draws := rfl

@[simp] theorem State.cmdTurn_ctrl : s.cmdTurn.ctrl = s.ctrl := rfl
@[simp] theorem State.cmdTurn_done : s.cmdTurn.done = s.done := rfl
@[simp] theorem State.cmdTurn_ill : s.cmdTurn.ill = s.ill := rfl
@[simp] theorem State.cmdTurn_ovr : s.cmdTurn.ovr = s.ovr := rfl
@[simp] theorem State.cmdTurn_lastOp : s.cmdTurn.lastOp = s.lastOp := rfl
@[simp] theorem State.cmdTurn_inLen : s.cmdTurn.inLen = s.inLen := rfl
@[simp] theorem State.cmdTurn_inBuf : s.cmdTurn.inBuf = s.inBuf := rfl
@[simp] theorem State.cmdTurn_qKind : s.cmdTurn.qKind = s.qKind := rfl
@[simp] theorem State.cmdTurn_qVal0 : s.cmdTurn.qVal0 = s.qVal0 := rfl
@[simp] theorem State.cmdTurn_qVal1 : s.cmdTurn.qVal1 = s.qVal1 := rfl
@[simp] theorem State.cmdTurn_qVal2 : s.cmdTurn.qVal2 = s.qVal2 := rfl
@[simp] theorem State.cmdTurn_qVal3 : s.cmdTurn.qVal3 = s.qVal3 := rfl
@[simp] theorem State.cmdTurn_qRes : s.cmdTurn.qRes = s.qRes := rfl
@[simp] theorem State.cmdTurn_xsumRes : s.cmdTurn.xsumRes = s.xsumRes := rfl
@[simp] theorem State.cmdTurn_adv : s.cmdTurn.adv = s.adv := rfl
@[simp] theorem State.cmdTurn_dec : s.cmdTurn.dec = s.dec := rfl
@[simp] theorem State.cmdTurn_pending : s.cmdTurn.pending = s.pending := rfl
@[simp] theorem State.cmdTurn_bus : s.cmdTurn.bus = s.bus.tail := rfl
@[simp] theorem State.cmdTurn_resp : s.cmdTurn.resp = some .writeOk := rfl
@[simp] theorem State.cmdTurn_mover : s.cmdTurn.mover = .host := rfl
@[simp] theorem State.cmdTurn_wait : s.cmdTurn.wait = s.wait - 1 := rfl
@[simp] theorem State.cmdTurn_draws : s.cmdTurn.draws = s.draws := rfl

@[simp] theorem completeAdvParse_ctrl (S : Snapshot) : (completeAdvParse S s).ctrl = s.ctrl := rfl
@[simp] theorem completeAdvParse_done (S : Snapshot) : (completeAdvParse S s).done = s.done := rfl
@[simp] theorem completeAdvParse_ill (S : Snapshot) : (completeAdvParse S s).ill = s.ill := rfl
@[simp] theorem completeAdvParse_ovr (S : Snapshot) : (completeAdvParse S s).ovr = s.ovr := rfl
@[simp] theorem completeAdvParse_lastOp (S : Snapshot) : (completeAdvParse S s).lastOp = s.lastOp := rfl
@[simp] theorem completeAdvParse_inLen (S : Snapshot) : (completeAdvParse S s).inLen = s.inLen := rfl
@[simp] theorem completeAdvParse_inBuf (S : Snapshot) : (completeAdvParse S s).inBuf = s.inBuf := rfl
@[simp] theorem completeAdvParse_qKind (S : Snapshot) : (completeAdvParse S s).qKind = s.qKind := rfl
@[simp] theorem completeAdvParse_qVal0 (S : Snapshot) : (completeAdvParse S s).qVal0 = s.qVal0 := rfl
@[simp] theorem completeAdvParse_qVal1 (S : Snapshot) : (completeAdvParse S s).qVal1 = s.qVal1 := rfl
@[simp] theorem completeAdvParse_qVal2 (S : Snapshot) : (completeAdvParse S s).qVal2 = s.qVal2 := rfl
@[simp] theorem completeAdvParse_qVal3 (S : Snapshot) : (completeAdvParse S s).qVal3 = s.qVal3 := rfl
@[simp] theorem completeAdvParse_qRes (S : Snapshot) : (completeAdvParse S s).qRes = false := rfl
@[simp] theorem completeAdvParse_xsumRes (S : Snapshot) : (completeAdvParse S s).xsumRes = s.xsumRes := rfl
@[simp] theorem completeAdvParse_adv (S : Snapshot) : (completeAdvParse S s).adv = parseAdv S.input := rfl
@[simp] theorem completeAdvParse_dec (S : Snapshot) : (completeAdvParse S s).dec = s.dec := rfl
@[simp] theorem completeAdvParse_pending (S : Snapshot) : (completeAdvParse S s).pending = s.pending := rfl
@[simp] theorem completeAdvParse_bus (S : Snapshot) : (completeAdvParse S s).bus = s.bus := rfl
@[simp] theorem completeAdvParse_resp (S : Snapshot) : (completeAdvParse S s).resp = s.resp := rfl
@[simp] theorem completeAdvParse_mover (S : Snapshot) : (completeAdvParse S s).mover = s.mover := rfl
@[simp] theorem completeAdvParse_wait (S : Snapshot) : (completeAdvParse S s).wait = s.wait := rfl
@[simp] theorem completeAdvParse_draws (S : Snapshot) : (completeAdvParse S s).draws = s.draws := rfl

@[simp] theorem completeSvcQuery_ctrl (S : Snapshot) : (completeSvcQuery S s).ctrl = s.ctrl := rfl
@[simp] theorem completeSvcQuery_done (S : Snapshot) : (completeSvcQuery S s).done = s.done := rfl
@[simp] theorem completeSvcQuery_ill (S : Snapshot) : (completeSvcQuery S s).ill = (s.ill || S.qKind == 3) := rfl
@[simp] theorem completeSvcQuery_ovr (S : Snapshot) : (completeSvcQuery S s).ovr = s.ovr := rfl
@[simp] theorem completeSvcQuery_lastOp (S : Snapshot) : (completeSvcQuery S s).lastOp = s.lastOp := rfl
@[simp] theorem completeSvcQuery_inLen (S : Snapshot) : (completeSvcQuery S s).inLen = s.inLen := rfl
@[simp] theorem completeSvcQuery_inBuf (S : Snapshot) : (completeSvcQuery S s).inBuf = s.inBuf := rfl
@[simp] theorem completeSvcQuery_qKind (S : Snapshot) : (completeSvcQuery S s).qKind = s.qKind := rfl
@[simp] theorem completeSvcQuery_qVal0 (S : Snapshot) : (completeSvcQuery S s).qVal0 = s.qVal0 := rfl
@[simp] theorem completeSvcQuery_qVal1 (S : Snapshot) : (completeSvcQuery S s).qVal1 = s.qVal1 := rfl
@[simp] theorem completeSvcQuery_qVal2 (S : Snapshot) : (completeSvcQuery S s).qVal2 = s.qVal2 := rfl
@[simp] theorem completeSvcQuery_qVal3 (S : Snapshot) : (completeSvcQuery S s).qVal3 = s.qVal3 := rfl
@[simp] theorem completeSvcQuery_qRes (S : Snapshot) : (completeSvcQuery S s).qRes = s.adv.advertises S.qKind S.qVal := rfl
@[simp] theorem completeSvcQuery_xsumRes (S : Snapshot) : (completeSvcQuery S s).xsumRes = s.xsumRes := rfl
@[simp] theorem completeSvcQuery_adv (S : Snapshot) : (completeSvcQuery S s).adv = s.adv := rfl
@[simp] theorem completeSvcQuery_dec (S : Snapshot) : (completeSvcQuery S s).dec = s.dec := rfl
@[simp] theorem completeSvcQuery_pending (S : Snapshot) : (completeSvcQuery S s).pending = s.pending := rfl
@[simp] theorem completeSvcQuery_bus (S : Snapshot) : (completeSvcQuery S s).bus = s.bus := rfl
@[simp] theorem completeSvcQuery_resp (S : Snapshot) : (completeSvcQuery S s).resp = s.resp := rfl
@[simp] theorem completeSvcQuery_mover (S : Snapshot) : (completeSvcQuery S s).mover = s.mover := rfl
@[simp] theorem completeSvcQuery_wait (S : Snapshot) : (completeSvcQuery S s).wait = s.wait := rfl
@[simp] theorem completeSvcQuery_draws (S : Snapshot) : (completeSvcQuery S s).draws = s.draws := rfl

@[simp] theorem completeBlkDecode_ctrl (S : Snapshot) : (completeBlkDecode S s).ctrl = s.ctrl := rfl
@[simp] theorem completeBlkDecode_done (S : Snapshot) : (completeBlkDecode S s).done = s.done := rfl
@[simp] theorem completeBlkDecode_ill (S : Snapshot) : (completeBlkDecode S s).ill = s.ill := rfl
@[simp] theorem completeBlkDecode_ovr (S : Snapshot) : (completeBlkDecode S s).ovr = s.ovr := rfl
@[simp] theorem completeBlkDecode_lastOp (S : Snapshot) : (completeBlkDecode S s).lastOp = s.lastOp := rfl
@[simp] theorem completeBlkDecode_inLen (S : Snapshot) : (completeBlkDecode S s).inLen = s.inLen := rfl
@[simp] theorem completeBlkDecode_inBuf (S : Snapshot) : (completeBlkDecode S s).inBuf = s.inBuf := rfl
@[simp] theorem completeBlkDecode_qKind (S : Snapshot) : (completeBlkDecode S s).qKind = s.qKind := rfl
@[simp] theorem completeBlkDecode_qVal0 (S : Snapshot) : (completeBlkDecode S s).qVal0 = s.qVal0 := rfl
@[simp] theorem completeBlkDecode_qVal1 (S : Snapshot) : (completeBlkDecode S s).qVal1 = s.qVal1 := rfl
@[simp] theorem completeBlkDecode_qVal2 (S : Snapshot) : (completeBlkDecode S s).qVal2 = s.qVal2 := rfl
@[simp] theorem completeBlkDecode_qVal3 (S : Snapshot) : (completeBlkDecode S s).qVal3 = s.qVal3 := rfl
@[simp] theorem completeBlkDecode_qRes (S : Snapshot) : (completeBlkDecode S s).qRes = s.qRes := rfl
@[simp] theorem completeBlkDecode_xsumRes (S : Snapshot) : (completeBlkDecode S s).xsumRes = s.xsumRes := rfl
@[simp] theorem completeBlkDecode_adv (S : Snapshot) : (completeBlkDecode S s).adv = s.adv := rfl
@[simp] theorem completeBlkDecode_dec (S : Snapshot) : (completeBlkDecode S s).dec = decodeBlock Config.params S.input S.ctrl := rfl
@[simp] theorem completeBlkDecode_pending (S : Snapshot) : (completeBlkDecode S s).pending = s.pending := rfl
@[simp] theorem completeBlkDecode_bus (S : Snapshot) : (completeBlkDecode S s).bus = s.bus := rfl
@[simp] theorem completeBlkDecode_resp (S : Snapshot) : (completeBlkDecode S s).resp = s.resp := rfl
@[simp] theorem completeBlkDecode_mover (S : Snapshot) : (completeBlkDecode S s).mover = s.mover := rfl
@[simp] theorem completeBlkDecode_wait (S : Snapshot) : (completeBlkDecode S s).wait = s.wait := rfl
@[simp] theorem completeBlkDecode_draws (S : Snapshot) : (completeBlkDecode S s).draws = s.draws := rfl

@[simp] theorem completeUnpack7_ctrl (S : Snapshot) : (completeUnpack7 S s).ctrl = s.ctrl := rfl
@[simp] theorem completeUnpack7_done (S : Snapshot) : (completeUnpack7 S s).done = s.done := rfl
@[simp] theorem completeUnpack7_ill (S : Snapshot) : (completeUnpack7 S s).ill = s.ill := rfl
@[simp] theorem completeUnpack7_ovr (S : Snapshot) : (completeUnpack7 S s).ovr = s.ovr := rfl
@[simp] theorem completeUnpack7_lastOp (S : Snapshot) : (completeUnpack7 S s).lastOp = s.lastOp := rfl
@[simp] theorem completeUnpack7_inLen (S : Snapshot) : (completeUnpack7 S s).inLen = s.inLen := rfl
@[simp] theorem completeUnpack7_inBuf (S : Snapshot) : (completeUnpack7 S s).inBuf = s.inBuf := rfl
@[simp] theorem completeUnpack7_qKind (S : Snapshot) : (completeUnpack7 S s).qKind = s.qKind := rfl
@[simp] theorem completeUnpack7_qVal0 (S : Snapshot) : (completeUnpack7 S s).qVal0 = s.qVal0 := rfl
@[simp] theorem completeUnpack7_qVal1 (S : Snapshot) : (completeUnpack7 S s).qVal1 = s.qVal1 := rfl
@[simp] theorem completeUnpack7_qVal2 (S : Snapshot) : (completeUnpack7 S s).qVal2 = s.qVal2 := rfl
@[simp] theorem completeUnpack7_qVal3 (S : Snapshot) : (completeUnpack7 S s).qVal3 = s.qVal3 := rfl
@[simp] theorem completeUnpack7_qRes (S : Snapshot) : (completeUnpack7 S s).qRes = s.qRes := rfl
@[simp] theorem completeUnpack7_xsumRes (S : Snapshot) : (completeUnpack7 S s).xsumRes = s.xsumRes := rfl
@[simp] theorem completeUnpack7_adv (S : Snapshot) : (completeUnpack7 S s).adv = s.adv := rfl
@[simp] theorem completeUnpack7_dec (S : Snapshot) : (completeUnpack7 S s).dec = { Dec.cleared with unp := unpack7 S.input } := rfl
@[simp] theorem completeUnpack7_pending (S : Snapshot) : (completeUnpack7 S s).pending = s.pending := rfl
@[simp] theorem completeUnpack7_bus (S : Snapshot) : (completeUnpack7 S s).bus = s.bus := rfl
@[simp] theorem completeUnpack7_resp (S : Snapshot) : (completeUnpack7 S s).resp = s.resp := rfl
@[simp] theorem completeUnpack7_mover (S : Snapshot) : (completeUnpack7 S s).mover = s.mover := rfl
@[simp] theorem completeUnpack7_wait (S : Snapshot) : (completeUnpack7 S s).wait = s.wait := rfl
@[simp] theorem completeUnpack7_draws (S : Snapshot) : (completeUnpack7 S s).draws = s.draws := rfl

@[simp] theorem completeXsum_ctrl (S : Snapshot) : (completeXsum S s).ctrl = s.ctrl := rfl
@[simp] theorem completeXsum_done (S : Snapshot) : (completeXsum S s).done = s.done := rfl
@[simp] theorem completeXsum_ill (S : Snapshot) : (completeXsum S s).ill = s.ill := rfl
@[simp] theorem completeXsum_ovr (S : Snapshot) : (completeXsum S s).ovr = s.ovr := rfl
@[simp] theorem completeXsum_lastOp (S : Snapshot) : (completeXsum S s).lastOp = s.lastOp := rfl
@[simp] theorem completeXsum_inLen (S : Snapshot) : (completeXsum S s).inLen = s.inLen := rfl
@[simp] theorem completeXsum_inBuf (S : Snapshot) : (completeXsum S s).inBuf = s.inBuf := rfl
@[simp] theorem completeXsum_qKind (S : Snapshot) : (completeXsum S s).qKind = s.qKind := rfl
@[simp] theorem completeXsum_qVal0 (S : Snapshot) : (completeXsum S s).qVal0 = s.qVal0 := rfl
@[simp] theorem completeXsum_qVal1 (S : Snapshot) : (completeXsum S s).qVal1 = s.qVal1 := rfl
@[simp] theorem completeXsum_qVal2 (S : Snapshot) : (completeXsum S s).qVal2 = s.qVal2 := rfl
@[simp] theorem completeXsum_qVal3 (S : Snapshot) : (completeXsum S s).qVal3 = s.qVal3 := rfl
@[simp] theorem completeXsum_qRes (S : Snapshot) : (completeXsum S s).qRes = s.qRes := rfl
@[simp] theorem completeXsum_xsumRes (S : Snapshot) : (completeXsum S s).xsumRes = xorFold S.input := rfl
@[simp] theorem completeXsum_adv (S : Snapshot) : (completeXsum S s).adv = s.adv := rfl
@[simp] theorem completeXsum_dec (S : Snapshot) : (completeXsum S s).dec = s.dec := rfl
@[simp] theorem completeXsum_pending (S : Snapshot) : (completeXsum S s).pending = s.pending := rfl
@[simp] theorem completeXsum_bus (S : Snapshot) : (completeXsum S s).bus = s.bus := rfl
@[simp] theorem completeXsum_resp (S : Snapshot) : (completeXsum S s).resp = s.resp := rfl
@[simp] theorem completeXsum_mover (S : Snapshot) : (completeXsum S s).mover = s.mover := rfl
@[simp] theorem completeXsum_wait (S : Snapshot) : (completeXsum S s).wait = s.wait := rfl
@[simp] theorem completeXsum_draws (S : Snapshot) : (completeXsum S s).draws = s.draws := rfl

@[simp] theorem completeClear_ctrl (S : Snapshot) : (completeClear S s).ctrl = s.ctrl := rfl
@[simp] theorem completeClear_done (S : Snapshot) : (completeClear S s).done = s.done := rfl
@[simp] theorem completeClear_ill (S : Snapshot) : (completeClear S s).ill = false := rfl
@[simp] theorem completeClear_ovr (S : Snapshot) : (completeClear S s).ovr = false := rfl
@[simp] theorem completeClear_lastOp (S : Snapshot) : (completeClear S s).lastOp = s.lastOp := rfl
@[simp] theorem completeClear_inLen (S : Snapshot) : (completeClear S s).inLen = s.inLen := rfl
@[simp] theorem completeClear_inBuf (S : Snapshot) : (completeClear S s).inBuf = s.inBuf := rfl
@[simp] theorem completeClear_qKind (S : Snapshot) : (completeClear S s).qKind = s.qKind := rfl
@[simp] theorem completeClear_qVal0 (S : Snapshot) : (completeClear S s).qVal0 = s.qVal0 := rfl
@[simp] theorem completeClear_qVal1 (S : Snapshot) : (completeClear S s).qVal1 = s.qVal1 := rfl
@[simp] theorem completeClear_qVal2 (S : Snapshot) : (completeClear S s).qVal2 = s.qVal2 := rfl
@[simp] theorem completeClear_qVal3 (S : Snapshot) : (completeClear S s).qVal3 = s.qVal3 := rfl
@[simp] theorem completeClear_qRes (S : Snapshot) : (completeClear S s).qRes = false := rfl
@[simp] theorem completeClear_xsumRes (S : Snapshot) : (completeClear S s).xsumRes = 0 := rfl
@[simp] theorem completeClear_adv (S : Snapshot) : (completeClear S s).adv = Adv.empty := rfl
@[simp] theorem completeClear_dec (S : Snapshot) : (completeClear S s).dec = Dec.cleared := rfl
@[simp] theorem completeClear_pending (S : Snapshot) : (completeClear S s).pending = s.pending := rfl
@[simp] theorem completeClear_bus (S : Snapshot) : (completeClear S s).bus = s.bus := rfl
@[simp] theorem completeClear_resp (S : Snapshot) : (completeClear S s).resp = s.resp := rfl
@[simp] theorem completeClear_mover (S : Snapshot) : (completeClear S s).mover = s.mover := rfl
@[simp] theorem completeClear_wait (S : Snapshot) : (completeClear S s).wait = s.wait := rfl
@[simp] theorem completeClear_draws (S : Snapshot) : (completeClear S s).draws = s.draws := rfl

end FieldLemmas

end Sys2Proof.Machine
end

