-- ==== Sys2Proof/Laws/Ops.lean ====
section
/-! SUPPORT. What the shared operations of a command can answer: one lemma per operation, cited instead of unfolding. -/

namespace Sys2Proof.Machine

/-- BUSY is that a command is pending (10 R45). -/
theorem State.busy_eq_false {s : State} : s.busy = false ↔ s.pending = none := by
  simp [State.busy]

theorem State.busy_eq_true {s : State} : s.busy = true ↔ ∃ p, s.pending = some p := by
  simp [State.busy, Option.isSome_iff_exists]

/-- When the pending command completes in this step. -/
theorem State.completing_eq_some {op : Cmd} {s : State} {S : Snapshot} :
    s.completing op = some S ↔ s.mover = .engine ∧ s.pending = some { op := op, snap := S } := by
  simp only [State.completing]
  split
  · rename_i p hm hp
    rw [hm, hp]
    obtain ⟨q, T⟩ := p
    by_cases h : q = op <;> simp [h]
  · rename_i h
    constructor
    · intro h'; cases h'
    · rintro ⟨hm, hp⟩; exact absurd hp (h _ hm)

/-- In the host's step nothing completes. -/
theorem State.completing_host {op : Cmd} {s : State} (h : s.mover = .host) : s.completing op = none := by
  simp [State.completing, h]

/-- Nothing completes while nothing is pending. -/
theorem State.completing_idle {op : Cmd} {s : State} (h : s.pending = none) : s.completing op = none := by
  simp only [State.completing]
  split
  · simp_all
  · rfl

/-- Everything a CMD write of an acceptable opcode can answer (43 R240). -/
theorem issue_cases {op : Cmd} {s : State} :
    (s.busy = true ∧ issue op s = .next s.dropWrite) ∨
    (s.busy = false ∧ op.readsInput = true ∧ s.inputWritten = false ∧ issue op s = .fault .unwrittenInput) ∨
    (s.busy = false ∧ (op.readsInput = true → s.inputWritten = true) ∧ issue op s = .next (s.accept op)) := by
  simp only [issue]
  cases hb : s.busy <;> cases hr : op.readsInput <;> cases hw : s.inputWritten <;> simp

/-- The engine's step of the pending command: its effect, then the completion (43 R245). -/
theorem runCommand_completes {op : Cmd} {effect : Snapshot → State → State} {s : State} {S : Snapshot}
    (hm : s.mover = .engine) (hp : s.pending = some { op := op, snap := S }) :
    runCommand op effect s = .next (effect S s).finish := by
  rw [runCommand, State.completing_eq_some.2 ⟨hm, hp⟩]

/-- Any other step of an accepted command is its CMD write (43 R240). -/
theorem runCommand_issues {op : Cmd} {effect : Snapshot → State → State} {s : State} (h : s.completing op = none) :
    runCommand op effect s = issue op s := by
  rw [runCommand, h]

/-- Everything a step of an accepted command can answer with a next state: completion, a dropped write, acceptance. -/
theorem runCommand_next_cases {op : Cmd} {effect : Snapshot → State → State} {s t : State}
    (h : runCommand op effect s = .next t) :
    (∃ S, s.mover = .engine ∧ s.pending = some { op := op, snap := S } ∧ t = (effect S s).finish) ∨
    (s.busy = true ∧ t = s.dropWrite) ∨
    (s.busy = false ∧ (op.readsInput = true → s.inputWritten = true) ∧ t = s.accept op) := by
  cases hc : s.completing op with
  | some S =>
    obtain ⟨hm, hp⟩ := State.completing_eq_some.1 hc
    rw [runCommand_completes hm hp] at h
    exact .inl ⟨S, hm, hp, by injection h with h; exact h.symm⟩
  | none =>
    rw [runCommand_issues hc] at h
    rcases issue_cases (op := op) (s := s) with ⟨hb, he⟩ | ⟨_, _, _, he⟩ | ⟨hb, hw, he⟩
    · rw [he] at h
      exact .inr (.inl ⟨hb, by injection h with h; exact h.symm⟩)
    · rw [he] at h; cases h
    · rw [he] at h
      exact .inr (.inr ⟨hb, hw, by injection h with h; exact h.symm⟩)

/-- Everything a CMD write of an opcode that is never accepted can answer (43 R241, R243, R244). -/
theorem unaccepted_eq (effect : State → State) (s : State) :
    unaccepted effect s = .next (if s.busy = true then s.dropWrite else effect s) := by
  cases hb : s.busy <;> simp [unaccepted, hb]

/-- The effect an accepted command has on completion (43 R245). -/
def Cmd.effect : Cmd → Snapshot → State → State
  | .advParse => completeAdvParse
  | .svcQuery => completeSvcQuery
  | .blkDecode => completeBlkDecode
  | .unpack7 => completeUnpack7
  | .xsum => completeXsum
  | .clear => completeClear

/-- exec of an accepted opcode's command is the shared operation with its effect. -/
theorem exec_instr (op : Cmd) (s : State) : exec op.instr s = runCommand op op.effect s := by
  cases op <;> rfl

/-- exec of the commands that are never accepted. -/
theorem exec_unaccepted {i : Instr} {s : State} (h : ∀ op : Cmd, i ≠ op.instr) :
    ∃ effect : State → State, (effect = id ∨ effect = State.markIllegal) ∧
      exec i s = .next (if s.busy = true then s.dropWrite else effect s) := by
  cases i with
  | nop => exact ⟨id, .inl rfl, unaccepted_eq _ s⟩
  | reserved7 => exact ⟨_, .inr rfl, unaccepted_eq _ s⟩
  | reserved8F op => exact ⟨_, .inr rfl, unaccepted_eq _ s⟩
  | advParse => exact absurd rfl (h .advParse)
  | svcQuery => exact absurd rfl (h .svcQuery)
  | blkDecode => exact absurd rfl (h .blkDecode)
  | unpack7 => exact absurd rfl (h .unpack7)
  | xsum => exact absurd rfl (h .xsum)
  | clear => exact absurd rfl (h .clear)

/-- Everything exec can answer with a next state (43 R240 to R245): the pending command completes; a write is dropped; a
command is accepted; NOP; a reserved opcode is recorded. -/
theorem exec_next_cases {i : Instr} {s t : State} (h : exec i s = .next t) :
    (∃ op S, i = op.instr ∧ s.mover = .engine ∧ s.pending = some { op := op, snap := S } ∧
      t = (op.effect S s).finish) ∨
    (s.busy = true ∧ t = s.dropWrite) ∨
    (∃ op, i = op.instr ∧ s.busy = false ∧ (op.readsInput = true → s.inputWritten = true) ∧ t = s.accept op) ∨
    (s.busy = false ∧ t = s) ∨ (s.busy = false ∧ t = s.markIllegal) := by
  by_cases hi : ∃ op : Cmd, i = op.instr
  · obtain ⟨op, rfl⟩ := hi
    rw [exec_instr] at h
    rcases runCommand_next_cases h with ⟨S, hm, hp, ht⟩ | hd | ⟨hb, hw, ht⟩
    · exact .inl ⟨op, S, rfl, hm, hp, ht⟩
    · exact .inr (.inl hd)
    · exact .inr (.inr (.inl ⟨op, rfl, hb, hw, ht⟩))
  · obtain ⟨e, he, hx⟩ := exec_unaccepted (s := s) fun op hop => hi ⟨op, hop⟩
    rw [hx] at h
    injection h with h
    cases hb : s.busy with
    | true => exact .inr (.inl ⟨rfl, by simpa [hb] using h.symm⟩)
    | false =>
      rcases he with rfl | rfl
      · exact .inr (.inr (.inr (.inl ⟨rfl, by simpa [hb] using h.symm⟩)))
      · exact .inr (.inr (.inr (.inr ⟨rfl, by simpa [hb] using h.symm⟩)))

/-- When the engine completes a command in this step (70 R303). -/
theorem State.engineReady_eq_some {s : State} {p : Pending} :
    s.engineReady = some p ↔ s.pending = some p ∧ (s.bus = [] ∨ s.wait = 0) := by
  simp only [State.engineReady]
  split
  · split <;> simp_all
  · simp_all

/-- Nothing completes when nothing is pending. -/
theorem State.engineReady_idle {s : State} (h : s.pending = none) : s.engineReady = none := by
  simp [State.engineReady, h]

/-- Everything a step can answer with a next state (20 R75): the engine completes; nothing is to be done; a CMD write
presents a command; another host step acts. -/
theorem step_next_cases {s t : State} (h : step s = .next t) :
    (∃ p, s.engineReady = some p ∧ exec p.op.instr s.engineTurn = .next t) ∨
    (s.engineReady = none ∧ s.bus = [] ∧ t = s) ∨
    (∃ hs rest v, s.engineReady = none ∧ s.bus = hs :: rest ∧ cmdWord hs = some v ∧
      exec (decode v) s.cmdTurn = .next t) ∨
    (∃ hs rest, s.engineReady = none ∧ s.bus = hs :: rest ∧ cmdWord hs = none ∧ t = s.hostTurn.hostAccess hs) := by
  simp only [step] at h
  split at h
  · exact .inl ⟨_, ‹_›, h⟩
  · split at h
    · injection h with h
      exact .inr (.inl ⟨‹_›, ‹_›, h.symm⟩)
    · split at h
      · exact .inr (.inr (.inl ⟨_, _, _, ‹_›, ‹_›, ‹_›, h⟩))
      · injection h with h
        exact .inr (.inr (.inr ⟨_, _, ‹_›, ‹_›, ‹_›, h.symm⟩))

end Sys2Proof.Machine
end

