-- ==== Sys2Proof/Laws/PerInstr.lean ====
section
/-! SUPPORT. The family RoundTrip, one lemma per constructor: the decoder reads back what the encoder writes, whatever
the ignored bits 31:4 hold (30 R90, R92). -/

namespace Sys2Proof

/-- The opcode of a word is its low four bits. -/
theorem opField_or_high (op : BitVec 4) (x : BitVec 28) : opField (x ++ op) = op := by
  rw [opField]
  ext i hi
  rw [BitVec.getElem_extractLsb']
  exact BitVec.getLsbD_append.trans (by simp [hi])

/-- Encoding puts the opcode into bits 3:0. -/
theorem opField_encode (i : Instr) : opField (encode i) = i.opcode := by
  simp only [opField, encode]
  ext j hj
  simp [hj, show j < 32 by omega]

/-- The decoder reads any word with a command's opcode in bits 3:0 as that opcode. -/
theorem decode_high_opcode (x : BitVec 28) (i : Instr) : decode (x ++ i.opcode) = decodeOp i.opcode := by
  rw [decode, opField_or_high]

/-- Decoding the encoded command gives it back, and so does decoding any word with the same OP. -/
def Laws.RoundTrip.Statement (i : Instr) : Prop :=
  i.wellFormed = true → decode (encode i) = i ∧ ∀ x : BitVec 28, decode (x ++ i.opcode) = i

/-- The family's statement from the opcode's row alone. -/
theorem Laws.roundTrip_of_decodeOp {i : Instr} (h : i.wellFormed = true → decodeOp i.opcode = i) :
    Laws.RoundTrip.Statement i := fun hw =>
  ⟨by rw [decode, opField_encode, h hw], fun x => by rw [decode_high_opcode, h hw]⟩

theorem Laws.RoundTrip.nop : Laws.RoundTrip.Statement .nop := Laws.roundTrip_of_decodeOp fun _ => rfl
theorem Laws.RoundTrip.advParse : Laws.RoundTrip.Statement .advParse := Laws.roundTrip_of_decodeOp fun _ => rfl
theorem Laws.RoundTrip.svcQuery : Laws.RoundTrip.Statement .svcQuery := Laws.roundTrip_of_decodeOp fun _ => rfl
theorem Laws.RoundTrip.blkDecode : Laws.RoundTrip.Statement .blkDecode := Laws.roundTrip_of_decodeOp fun _ => rfl
theorem Laws.RoundTrip.unpack7 : Laws.RoundTrip.Statement .unpack7 := Laws.roundTrip_of_decodeOp fun _ => rfl
theorem Laws.RoundTrip.xsum : Laws.RoundTrip.Statement .xsum := Laws.roundTrip_of_decodeOp fun _ => rfl
theorem Laws.RoundTrip.clear : Laws.RoundTrip.Statement .clear := Laws.roundTrip_of_decodeOp fun _ => rfl
theorem Laws.RoundTrip.reserved7 : Laws.RoundTrip.Statement .reserved7 := Laws.roundTrip_of_decodeOp fun _ => rfl

theorem Laws.RoundTrip.reserved8F (op : BitVec 4) : Laws.RoundTrip.Statement (.reserved8F op) :=
  Laws.roundTrip_of_decodeOp (by revert op; decide)

end Sys2Proof
end

