-- ==== Sys2Proof/Laws/Window.lean ====
section
/-! SUPPORT. The register window: what each of its operations can do, cited instead of unfolding. -/

namespace Sys2Proof.Machine

/-- The register found at an offset is the one that stands there (10 R22). -/
theorem regAligned_some {n : Nat} {r : Reg} (h : regAligned n = some r) : r.offset = n := by
  simpa using List.find?_some h

/-- The list of the map leaves out no register (10 R22). -/
theorem Reg.mem_all (r : Reg) : r ∈ Reg.all := by
  cases r <;> simp [Reg.all, List.mem_finRange]

/-- No register stands at an offset where none is found (20 R65). -/
theorem regAligned_none {n : Nat} (h : regAligned n = none) (r : Reg) : r.offset ≠ n := by
  simpa using List.find?_eq_none.1 h r r.mem_all

/-- The only host step that presents a command is a 32-bit write at offset 4 (10 R24). -/
theorem cmdWord_some {h : HostStep} {v : Word} (hv : cmdWord h = some v) : h = .write 32 (.window 4) v := by
  cases h with
  | read => cases hv
  | reset => cases hv
  | write bits place u =>
    cases place with
    | elsewhere => cases hv
    | window off =>
      simp only [cmdWord] at hv
      split at hv
      · rename_i hg
        simp only [goodAccess, Bool.and_eq_true, beq_iff_eq] at hg
        have hoff := regAligned_some hg.2
        injection hv with hv
        rw [hv, hg.1.1, show off = 4 from BitVec.eq_of_toNat_eq hoff.symm]
      · cases hv

/-- A write of CMD presents the word written (10 R24). -/
@[simp] theorem cmdWord_hostWrite_cmd (v : Word) : cmdWord (hostWrite 0x004 v) = some v := rfl

/-- A write anywhere else in the window presents no command. -/
theorem cmdWord_window_ne {bits : Nat} {off : BitVec 12} {v : Word} (h : bits ≠ 32 ∨ off ≠ 4) :
    cmdWord (.write bits (.window off) v) = none := by
  cases hc : cmdWord (.write bits (.window off) v) with
  | none => rfl
  | some u =>
    have := cmdWord_some hc
    injection this with hb hp
    injection hp with hp
    exact absurd h (by simp [hb, hp])

/-- A byte of a word put together from four bytes (20 R68). -/
theorem byteOf_join (b3 b2 b1 b0 : Byte) (k : Fin 4) :
    byteOf (b3 ++ b2 ++ b1 ++ b0 : BitVec (8 + 8 + 8 + 8)) k =
      if k = 0 then b0 else if k = 1 then b1 else if k = 2 then b2 else b3 := by
  ext i hi
  have hk := k.isLt
  rw [byteOf, BitVec.getElem_extractLsb', BitVec.getLsbD_append, BitVec.getLsbD_append, BitVec.getLsbD_append]
  rcases (by omega : (k : Nat) = 0 ∨ (k : Nat) = 1 ∨ (k : Nat) = 2 ∨ (k : Nat) = 3) with h | h | h | h
  · rw [show k = 0 from Fin.ext h, if_pos rfl, if_pos (by simp; omega)]
    simpa using BitVec.getLsbD_eq_getElem hi
  · rw [show k = 1 from Fin.ext h, if_neg (by simp), if_pos (by simp; omega)]
    simpa using BitVec.getLsbD_eq_getElem hi
  · rw [show k = 2 from Fin.ext h, if_neg (by simp; omega), if_neg (by simp; omega), if_pos (by simp; omega)]
    simpa [show 16 + i - 8 - 8 = i by omega] using BitVec.getLsbD_eq_getElem hi
  · rw [show k = 3 from Fin.ext h, if_neg (by simp; omega), if_neg (by simp; omega), if_neg (by simp; omega)]
    simpa [show 24 + i - 8 - 8 - 8 = i by omega] using BitVec.getLsbD_eq_getElem hi

/-- Byte `4w+k` of a packed byte array (20 R68). -/
theorem byteOf_packWord (B : List Byte) (w : Nat) (k : Fin 4) : byteOf (packWord B w) k = B.getD (4 * w + k) 0 := by
  refine (byteOf_join _ _ _ _ k).trans ?_
  fin_cases k <;> rfl

/-- Byte `4w+k` of IN_BUF word `w` (20 R70). -/
theorem byteOf_inWord (s : State) (w : Nat) (k : Fin 4) : byteOf (s.inWord w) k = s.inByte (4 * w + k) := by
  refine (byteOf_join _ _ _ _ k).trans ?_
  fin_cases k <;> rfl

/-- The bytes of IN_BUF after a word write (20 R69). -/
theorem get_putInWord (s : State) (w : Nat) (v : Word) (a : Nat) :
    Memory.get (s.putInWord w v).inBuf a =
      if a = 4 * w + 3 then some (byteOf v 3) else if a = 4 * w + 2 then some (byteOf v 2)
      else if a = 4 * w + 1 then some (byteOf v 1) else if a = 4 * w then some (byteOf v 0)
      else Memory.get s.inBuf a := by
  simp only [State.putInWord, Memory.get_put]

/-- A word write keeps the canonical form of IN_BUF. -/
theorem wf_putInWord {s : State} (w : Fin 64) (v : Word) (h : Memory.wf s.inBuf = true) :
    Memory.wf (s.putInWord w v).inBuf = true := by
  have hw := w.isLt
  exact Memory.wf_put _ (by omega) (Memory.wf_put _ (by omega) (Memory.wf_put _ (by omega) (Memory.wf_put _ (by omega) h)))

/-- A store writes input registers only: every other field keeps its value. -/
theorem storeReg_frame (s : State) (v : Word) (r : Reg) :
    (s.storeReg v r) =
      { s with ctrl := (s.storeReg v r).ctrl, inLen := (s.storeReg v r).inLen, inBuf := (s.storeReg v r).inBuf,
               qKind := (s.storeReg v r).qKind, qVal0 := (s.storeReg v r).qVal0, qVal1 := (s.storeReg v r).qVal1,
               qVal2 := (s.storeReg v r).qVal2, qVal3 := (s.storeReg v r).qVal3 } := by
  cases r <;> simp only [State.storeReg, State.putInWord]
  split
  · rfl
  · split
    · rfl
    · split <;> rfl

/-- A store keeps the canonical form of IN_BUF. -/
theorem wf_storeReg {s : State} (v : Word) (r : Reg) (h : Memory.wf s.inBuf = true) :
    Memory.wf (s.storeReg v r).inBuf = true := by
  cases r with
  | inBuf w => exact wf_putInWord w v h
  | qVal i =>
    simp only [State.storeReg]
    split
    · exact h
    · split
      · exact h
      · split <;> exact h
  | _ => exact h

/-- While busy the write of an input register is dropped (20 R71). -/
theorem writeReg_busy {s : State} (v : Word) {r : Reg} (hr : r.isInput = true) (hb : s.busy = true) :
    s.writeReg v r = s.dropWrite := by
  simp [State.writeReg, hr, hb]

/-- While idle a write stores (20 R66, R67). -/
theorem writeReg_idle {s : State} (v : Word) (r : Reg) (hb : s.busy = false) : s.writeReg v r = s.storeReg v r := by
  simp [State.writeReg, hb]

/-- A store to a register that is no input register changes nothing (20 R67). -/
theorem storeReg_readOnly {s : State} (v : Word) {r : Reg} (hr : r.isInput = false) : s.storeReg v r = s := by
  cases r <;> first | rfl | cases hr

/-- A write of a register keeps the block, drops, or stores while idle. -/
theorem writeReg_cases (s : State) (v : Word) (r : Reg) :
    s.writeReg v r = s ∨ (s.busy = true ∧ s.writeReg v r = s.dropWrite) ∨
      (s.busy = false ∧ r.isInput = true ∧ s.writeReg v r = s.storeReg v r) := by
  cases hr : r.isInput with
  | false => exact .inl (by simp [State.writeReg, hr, storeReg_readOnly v hr])
  | true =>
    cases hb : s.busy with
    | true => exact .inr (.inl ⟨rfl, writeReg_busy v hr hb⟩)
    | false => exact .inr (.inr ⟨rfl, rfl, writeReg_idle v r hb⟩)

/-- A read changes nothing but the answer and the count of draws (20 R74). -/
theorem readWindow_frame (s : State) (bits : Nat) (off : BitVec 12) :
    s.readWindow bits off =
      { s with resp := (s.readWindow bits off).resp, draws := (s.readWindow bits off).draws } := by
  simp only [State.readWindow]
  split
  · split <;> rfl
  · rfl

/-- A write to the window is a register write, and the answer. -/
theorem writeWindow_cases (s : State) (bits : Nat) (off : BitVec 12) (v : Word) :
    (∃ resp, s.writeWindow bits off v = { s with resp := resp }) ∨
      (∃ r, regAligned off.toNat = some r ∧ s.writeWindow bits off v = { s.writeReg v r with resp := some .writeOk }) := by
  simp only [State.writeWindow]
  split
  · split
    · exact .inr ⟨_, ‹_›, rfl⟩
    · exact .inl ⟨_, rfl⟩
  · exact .inl ⟨_, rfl⟩

/-- Everything a host step other than a CMD write does: nothing but an answer; a dropped write; a store of an input
register while idle; reset. -/
theorem hostAccess_cases (s : State) (h : HostStep) :
    (∃ resp draws, s.hostAccess h = { s with resp := resp, draws := draws }) ∨
      (s.busy = true ∧ ∃ resp, s.hostAccess h = { s.dropWrite with resp := resp }) ∨
      (s.busy = false ∧ ∃ v r resp, s.hostAccess h = { s.storeReg v r with resp := resp }) ∨
      (h = .reset ∧ s.hostAccess h = s.resetEvent) := by
  cases h with
  | reset => exact .inr (.inr (.inr ⟨rfl, rfl⟩))
  | read bits place =>
    cases place with
    | elsewhere => exact .inl ⟨_, _, rfl⟩
    | window off => exact .inl ⟨_, _, readWindow_frame s bits off⟩
  | write bits place v =>
    cases place with
    | elsewhere => exact .inl ⟨_, _, rfl⟩
    | window off =>
      simp only [State.hostAccess]
      rcases writeWindow_cases s bits off v with ⟨resp, he⟩ | ⟨r, _, he⟩
      · exact .inl ⟨resp, s.draws, he⟩
      · rw [he]
        rcases writeReg_cases s v r with hw | ⟨hb, hw⟩ | ⟨hb, _, hw⟩
        · rw [hw]
          exact .inl ⟨_, s.draws, rfl⟩
        · rw [hw]
          exact .inr (.inl ⟨hb, _, rfl⟩)
        · rw [hw]
          exact .inr (.inr (.inl ⟨hb, _, _, _, rfl⟩))

end Sys2Proof.Machine
end

