-- ==== Sys2Proof/Tests/Slice0.lean ====
section
/-! SUPPORT. Tests: words written out from the opcode map, single steps from the vectors of 95_test_vectors.md, and for
every claim with hypotheses a state and operands that meet them. -/

namespace Sys2Proof.Tests

open Sys2Proof.Machine

/-! ### Well-formedness and decoding (30 R90 to R93) -/

/-- The reserved range is 0x8 to 0xF (30 R91): a term that names an opcode below it is refused. -/
theorem test_illFormed_refused : (Instr.reserved8F 0x3).wellFormed = false := by decide

theorem test_wellFormed_bounds :
    (Instr.reserved8F 0x7).wellFormed = false ∧ (Instr.reserved8F 0x8).wellFormed = true ∧
      (Instr.reserved8F 0xF).wellFormed = true ∧ Instr.clear.wellFormed = true := by decide

/-- 30 R91, each word bit by bit: bits 31:4 are ignored, bits 3:0 are OP. -/
theorem test_decode_words :
    decode 0b00000000000000000000000000000000 = .nop ∧
    decode 0b00000000000000000000000000000001 = .advParse ∧
    decode 0b00000000000000000000000000000010 = .svcQuery ∧
    decode 0b00000000000000000000000000000011 = .blkDecode ∧
    decode 0b00000000000000000000000000000100 = .unpack7 ∧
    decode 0b00000000000000000000000000000101 = .xsum ∧
    decode 0b00000000000000000000000000000110 = .clear ∧
    decode 0b00000000000000000000000000000111 = .reserved7 ∧
    decode 0b00000000000000000000000000001000 = .reserved8F 0b1000 ∧
    decode 0b00000000000000000000000000001111 = .reserved8F 0b1111 := by decide

/-- The same with ignored bits set (30 R90, R92). -/
theorem test_decode_ignored_bits :
    decode 0b11111111111111111111111111110000 = .nop ∧
    decode 0b10101010101010101010101010100001 = .advParse ∧
    decode 0b10000000000000000000000000000110 = .clear ∧
    decode 0b00000000000000000000000000010111 = .reserved7 ∧
    decode 0b01000000000000000000000000001100 = .reserved8F 0b1100 := by decide

/-- 30 R91: the words of the commands, from the opcode map. -/
theorem test_encode_words :
    encode .nop = 0 ∧ encode .advParse = 1 ∧ encode .svcQuery = 2 ∧ encode .blkDecode = 3 ∧ encode .unpack7 = 4 ∧
    encode .xsum = 5 ∧ encode .clear = 6 ∧ encode .reserved7 = 7 ∧ encode (.reserved8F 0xA) = 10 := by decide

/-! ### States and blocks for the tests -/

/-- A memory with the bytes `B` from address `i` on. -/
def fill (i : Nat) : List Byte → Memory
  | [] => []
  | b :: B => (i, b) :: fill (i + 1) B

/-- After reset, with `B` loaded (30 R113). -/
def loaded (B : List Byte) : State := { State.reset with inBuf := fill 0 B, inLen := BitVec.ofNat 8 B.length }

/-- The snapshot of `s` on the input bytes `B`. -/
def snap (s : State) (B : List Byte) : Snapshot :=
  { input := B, ctrl := s.ctrl, qKind := s.qKind, qVal := s.qVal }

/-- The engine's step of `op` on the bytes `B`, in the state `s`. -/
def completing (op : Cmd) (s : State) (B : List Byte) : State :=
  { s with mover := .engine, pending := some ⟨op, snap s B⟩, lastOp := op.opcode, done := false }

/-- After reset, the host's next step is `h`. -/
def idleBus (h : HostStep) : State := { State.reset with bus := [h] }

/-- A BLK_DECODE of no bytes is pending and lets one host step pass, which is `h`. -/
def busyBus (h : HostStep) : State :=
  { State.reset with bus := [h], wait := 1, pending := some ⟨.blkDecode, snap State.reset []⟩, lastOp := 3 }

/-- The state an outcome gives, or the reset state. -/
def orReset (o : Host.Outcome State Fault Refusal) : State :=
  match o with
  | .next t => t
  | .fault _ => State.reset
  | .refused _ => State.reset

/-- What registers read in the next state of an outcome; nothing after a stop. -/
def reads (o : Host.Outcome State Fault Refusal) (rs : List Reg) : Option (List Word) :=
  match o with
  | .next t => some (rs.map t.regValue)
  | .fault _ => none
  | .refused _ => none

/-- TCFG (95 section 0). -/
def tcfg : Params := { magic := #v[0x01, 0xFE, 0x00, 0x00], dirFrom := #v[0x41, 0xFF], sysexId := 0x01 }

/-- The Spark block (95 section 2.3). -/
def spark : List Byte :=
  [0x01, 0xFE, 0x00, 0x00, 0x41, 0xFF, 0x1E] ++ List.replicate 9 0x00 ++
    [0xF0, 0x01, 0x2A, 0x5E, 0x03, 0x11, 0x00, 0x05, 0x53, 0x70, 0x61, 0x72, 0x6B, 0xF7]

/-! ### Single steps, from the vectors of 95 -/

/-- K2: a NOP word changes nothing. -/
theorem test_nop : reads (step (State.reset.withFetchWord 32 0xFFFFFFF0)) [.status, .ctrl, .decRes] = some [0, 1, 0xF] := by
  decide

/-- K6, R241: a NOP while busy sets OVR. -/
theorem test_nop_busy : reads (step (busyBus (hostWrite 0x004 0))) [.status] = some [0x39] := by decide

/-- A18: types 0x03 and 0x02 append to one list. -/
theorem test_advParse_lists :
    reads (exec .advParse (completing .advParse State.reset [0x03, 0x03, 0xC0, 0xFF, 0x03, 0x02, 0xC1, 0xFF]))
      [.advCnt, .advU16 0, .advU16 1, .status] = some [0x00000002, 0x0000FFC0, 0x0000FFC1, 0x12] := by decide

/-- A14 and R132: another type takes a slot; the walk stops at a structure that would read past the end. -/
theorem test_advParse_other :
    reads (exec .advParse (completing .advParse State.reset
        [0x06, 0x09, 0x53, 0x70, 0x61, 0x72, 0x6B, 0x05, 0x03, 0xC0]))
      [.advCnt, .othDesc 0, .othData 0 0, .othData 0 1, .advU16 0] =
      some [0x01000000, 0x00000509, 0x72617053, 0x0000006B, 0] := by decide

/-- The state after A1, with a query of Q_KIND `k` and Q_VAL0 `v`. -/
def queried (k : BitVec 2) (v : Word) : State :=
  completing .svcQuery
    { orReset (exec .advParse (completing .advParse State.reset [0x02, 0x01, 0x06, 0x03, 0x03, 0xC0, 0xFF])) with
      qKind := k, qVal0 := v } []

/-- Q5: the bits above the variant are ignored. -/
theorem test_svcQuery_match : reads (exec .svcQuery (queried 0 0x1234FFC0)) [.qRes, .status] = some [1, 0x22] := by decide

/-- Q9: Q_KIND = 3 sets ILL. -/
theorem test_svcQuery_ill : reads (exec .svcQuery (queried 3 0xFFC0)) [.qRes, .status] = some [0, 0x26] := by decide

/-- V19: NAME_OFF2 = 1. -/
theorem test_blkDecode_name :
    let d := decodeBlock tcfg (buildBlock tcfg 0x03 0x03 0x11 [0x00, 0x05, 0x00, 0x53, 0x70, 0x61, 0x72, 0x6B]) 0b011
    d.resWord = 0x00000100 ∧ d.hdrWord = 0x1F110303 ∧ d.csumWord = 0x00005E5E ∧ d.unpWord = 7 ∧
      d.nameWord = 0x00000205 ∧ d.unp = [0x05, 0x00, 0x53, 0x70, 0x61, 0x72, 0x6B] := by decide

/-- V11: a wrong checksum byte. -/
theorem test_blkDecode_csum :
    let d := decodeBlock tcfg (spark.set 19 0x5F) 0b001
    d.resWord = 0x00000007 ∧ d.hdrWord = 0x1E11032A ∧ d.csumWord = 0x00005E5F ∧ d.unpWord = 0 ∧ d.nameWord = 0 := by
  decide

/-- U3. -/
theorem test_unpack7_group :
    reads (exec .unpack7 (completing .unpack7 State.reset
        [0x23, 0x00, 0x7F, 0x01, 0x7F, 0x00, 0x2A, 0x55, 0x00, 0x12, 0x34]))
      [.decRes, .decUnp, .unpBuf 0, .unpBuf 1, .unpBuf 2, .status] =
      some [0xF, 9, 0x7F01FF80, 0x1255AA00, 0x00000034, 0x42] := by decide

/-- U5: mask bit 7 is ignored. -/
theorem test_unpack7_maskBit7 :
    reads (exec .unpack7 (completing .unpack7 State.reset [0xFF, 0, 0, 0, 0, 0, 0, 0])) [.decUnp, .unpBuf 0, .unpBuf 1] =
      some [7, 0x80808080, 0x00808080] := by decide

/-- X5. -/
theorem test_xsum :
    reads (exec .xsum (completing .xsum State.reset
        [0x23, 0x00, 0x7F, 0x01, 0x7F, 0x00, 0x2A, 0x55, 0x00, 0x12, 0x34])) [.xsumRes, .status] = some [0x7B, 0x52] := by
  decide

/-- K13: XSUM over 4 bytes never written. -/
theorem test_xsum_unwritten : exec .xsum { State.reset with inLen := 4 } = .fault .unwrittenInput := by rfl

/-- K5: CLEAR after a reserved opcode. -/
theorem test_clear :
    reads (exec .clear (completing .clear { State.reset with ill := true, ovr := true, xsumRes := 9 } []))
      [.status, .xsumRes, .decRes] = some [0x62, 0, 0xF] := by decide

/-- K3. -/
theorem test_reserved7 : reads (step (State.reset.withFetchWord 32 0x7)) [.status] = some [0x04] := by decide

/-- K4: ILL stays 1. -/
theorem test_reserved8F :
    reads (step ({ State.reset with ill := true }.withFetchWord 32 0xF)) [.status] = some [0x04] := by decide

/-- K8: the busy check comes first. -/
theorem test_reserved8F_busy : reads (step (busyBus (hostWrite 0x004 0x8))) [.status] = some [0x39] := by decide

/-! ### The hypotheses of the claims are met

Each theorem shows a state and operands that meet all the hypotheses of the claim it is named after, clause by clause. -/

theorem test_meets_DecodeAndEncodeAgree :
    Instr.nop.wellFormed = true ∧ Instr.reserved7.wellFormed = true ∧ (Instr.reserved8F 0x8).wellFormed = true ∧
      (Instr.reserved8F 0xF).wellFormed = true := by decide

theorem test_meets_StepRunsPresentedCommand :
    (idleBus (hostWrite 0x004 1)).engineReady = none ∧
      (idleBus (hostWrite 0x004 1)).bus = .write 32 (.window 0x004) 1 :: [] ∧
      (busyBus (hostWrite 0x004 1)).engineReady = none ∧
      0xFFFFFFFF % 2 ^ 32 < 2 ^ 32 ∧ 0x7 % 2 ^ 8 < 2 ^ 32 := by decide

theorem test_meets_StepWithoutAHostStep :
    (completing .clear State.reset []).pending = some ⟨.clear, snap State.reset []⟩ ∧
      (completing .clear State.reset []).bus = [] ∧
      ({ busyBus .reset with wait := 0 } : State).pending = some ⟨.blkDecode, snap State.reset []⟩ ∧
      ({ busyBus .reset with wait := 0 } : State).wait = 0 ∧
      State.reset.pending = none ∧ State.reset.bus = [] := by decide

/-- The claim's fault is met, on an idle block with one unwritten byte. -/
theorem test_meets_StepStopsOnlyOnUnwrittenInput :
    step { idleBus (hostWrite 0x004 1) with inLen := 1 } = .fault .unwrittenInput ∧
      ∃ t, step State.reset = .next t := ⟨rfl, _, rfl⟩

theorem test_meets_CmdWriteJudgedInOrder :
    (busyBus .reset).mover = .host ∧ (busyBus .reset).busy = true ∧
      State.reset.mover = .host ∧ State.reset.busy = false ∧
      opField 0xFFFFFFF0 = 0x0 ∧ 0x7 ≤ (opField 0x7).toNat ∧ 0x7 ≤ (opField 0xF).toNat ∧
      opField 0x5 ∈ ([0x1, 0x3, 0x4, 0x5] : List (BitVec 4)) ∧
      (∃ j < ({ loaded [0x05] with inLen := 2 } : State).inLen.toNat,
        Memory.get ({ loaded [0x05] with inLen := 2 } : State).inBuf j = none) ∧
      0x1 ≤ (opField 0x1).toNat ∧ (opField 0x6).toNat ≤ 0x6 ∧
      (∀ j < (loaded [0x05, 0x06]).inLen.toNat, Memory.get (loaded [0x05, 0x06]).inBuf j ≠ none) := by decide

/-- A pending command kept through a host step. -/
theorem test_meets_CmdWriteJudgedInOrder_pending :
    (busyBus (hostRead 0x008)).pending = some ⟨.blkDecode, snap State.reset []⟩ ∧
      (busyBus (hostRead 0x008)).engineReady = none ∧ (busyBus (hostRead 0x008)).bus.head? ≠ some .reset ∧
      ∃ t, step (busyBus (hostRead 0x008)) = .next t :=
  ⟨by decide, by decide, by decide, _, rfl⟩

theorem test_meets_NopChangesNothing :
    opField 0xFFFFFFF0 = 0 ∧ State.reset.pending = none ∧ (busyBus .reset).pending ≠ none := by decide

theorem test_meets_ReservedOpcodesSetIll :
    0x7 ≤ (opField 0x7).toNat ∧ 0x7 ≤ (opField 0xFFFFFFFF).toNat ∧ State.reset.pending = none ∧
      (busyBus .reset).pending ≠ none := by decide

/-- Both sides of the equivalence occur. -/
theorem test_meets_FaultExactlyOnUnwrittenInput :
    exec .advParse { State.reset with inLen := 255 } = .fault .unwrittenInput ∧
      (∃ t, exec .advParse (loaded []) = .next t) ∧ (∃ t, exec .svcQuery { State.reset with inLen := 255 } = .next t) :=
  ⟨rfl, ⟨_, rfl⟩, _, rfl⟩

/-- One structure of each of the three tails at which the walk stops. -/
theorem test_meets_AdvParseRecordsItsStructures :
    (completing .advParse State.reset [0x02, 0x01, 0x06, 0x00, 0x07]).Completes .advParse
        (snap State.reset [0x02, 0x01, 0x06, 0x00, 0x07]) ∧
      [0x02, 0x01, 0x06, 0x00, 0x07] = [(0x01, [0x06])].flatMap adBytes ++ [0x00, 0x07] ∧
      (∀ x ∈ [((0x01 : Byte), [(0x06 : Byte)])], x.2.length ≤ 254) ∧
      walkStops [0x00, 0x07] ∧ walkStops [] ∧ walkStops [0x05, 0x03] :=
  ⟨by decide, by decide, by decide, .inl rfl, trivial, .inr (by decide)⟩

theorem test_meets_AdvParseRecordsItsStructures_longest :
    (∀ x ∈ [((0x09 : Byte), List.replicate 254 (0x41 : Byte))], x.2.length ≤ 254) :=
  List.forall_mem_singleton.2 List.length_replicate.le

theorem test_meets_SvcQueryTestsMembership :
    (queried 0 0).Completes .svcQuery (snap (queried 0 0) []) ∧ (snap (queried 0 0) []).qKind = 0 ∧
      (queried 1 0).Completes .svcQuery (snap (queried 1 0) []) ∧ (snap (queried 1 0) []).qKind = 1 ∧
      (queried 2 0).Completes .svcQuery (snap (queried 2 0) []) ∧ (snap (queried 2 0) []).qKind = 2 ∧
      (queried 3 0).Completes .svcQuery (snap (queried 3 0) []) ∧ (snap (queried 3 0) []).qKind = 3 := by decide

theorem test_meets_BlkDecodeOverwritesDecGroup :
    (completing .blkDecode State.reset spark).Completes .blkDecode (snap State.reset spark) := by decide

theorem test_meets_Unpack7FillsUnpBuf :
    opField 0x4 = 0x4 ∧
      ({ State.reset with inLen := 1 } : State).pending = none ∧
      (∃ j < ({ State.reset with inLen := 1 } : State).inLen.toNat,
        Memory.get ({ State.reset with inLen := 1 } : State).inBuf j = none) ∧
      (completing .unpack7 State.reset (List.replicate 255 0)).Completes .unpack7
        (snap State.reset (List.replicate 255 0)) ∧
      (snap State.reset (List.replicate 255 0)).input.length ≤ 255 :=
  ⟨by decide, rfl, by decide, ⟨rfl, rfl⟩, List.length_replicate.le⟩

theorem test_meets_XsumFoldsItsInput :
    opField 0xF5 = 0x5 ∧
      ({ loaded [0x5E] with inLen := 2 } : State).pending = none ∧
      (∃ j < ({ loaded [0x5E] with inLen := 2 } : State).inLen.toNat,
        Memory.get ({ loaded [0x5E] with inLen := 2 } : State).inBuf j = none) ∧
      (completing .xsum State.reset [0xFF, 0xFF]).Completes .xsum (snap State.reset [0xFF, 0xFF]) := by decide

theorem test_meets_ClearRestoresOutputs :
    opField 0x6 = 0x6 ∧ (completing .clear State.reset []).Completes .clear (snap State.reset []) ∧
      Reg.decRes.isResult = true ∧ (Reg.unpBuf 55).isResult = true := by decide

theorem test_meets_CompletionWritesStatus :
    (completing .advParse State.reset []).Completes .advParse (snap State.reset []) ∧
      (completing .svcQuery State.reset []).Completes .svcQuery (snap State.reset []) ∧
      (completing .blkDecode State.reset []).Completes .blkDecode (snap State.reset []) ∧
      (completing .unpack7 State.reset []).Completes .unpack7 (snap State.reset []) ∧
      (completing .xsum State.reset []).Completes .xsum (snap State.reset []) ∧
      (completing .clear State.reset []).Completes .clear (snap State.reset []) := by decide

theorem test_meets_NoCommandWritesInputs :
    (∃ t, exec .blkDecode (loaded spark) = .next t) ∧ (∃ t, exec .xsum (completing .xsum State.reset [0x01]) = .next t) ∧
      ∃ t, exec .reserved7 (busyBus .reset) = .next t := ⟨⟨_, rfl⟩, ⟨_, rfl⟩, _, rfl⟩

/-- Two blocks with the same bytes loaded and different results standing. -/
theorem test_meets_DecodeDependsOnlyOnItsBlock :
    let s₁ := loaded [0x01, 0x02]
    let s₂ : State := { loaded [0x01, 0x02] with dec := { Dec.cleared with code := .rejCsum }, xsumRes := 7, done := true }
    s₁.pending = none ∧ s₂.pending = none ∧ s₁.inLen = s₂.inLen ∧ s₁.ctrl = s₂.ctrl ∧
      ∀ j < s₁.inLen.toNat, Memory.get s₁.inBuf j ≠ none ∧ Memory.get s₁.inBuf j = Memory.get s₂.inBuf j := by decide

theorem test_meets_FlagsKeptWhenOneByte :
    [(0x06 : Byte)] = [0x06] ∧ ([] : List Byte).length ≠ 1 ∧ [(0x06 : Byte), 0x07].length ≠ 1 := by decide

/-- A record with every list full. -/
def fullAdv : Adv :=
  { flags := some 0x06, u16 := List.replicate 8 0xFFC0, u32 := List.replicate 4 0x12345678, u128 := List.replicate 2 1,
    mfg := List.replicate 16 0x4C, oth := List.replicate 4 ⟨0x09, List.replicate 16 0x41⟩ }

theorem test_meets_UuidListsAppendUpToCapacity :
    ((0x02 : Byte) = 0x02 ∨ (0x02 : Byte) = 0x03) ∧ ((0x05 : Byte) = 0x04 ∨ (0x05 : Byte) = 0x05) ∧
      ((0x07 : Byte) = 0x06 ∨ (0x07 : Byte) = 0x07) ∧ fullAdv.u16.length ≤ 8 ∧ fullAdv.u32.length ≤ 4 ∧
      fullAdv.u128.length ≤ 2 ∧ Adv.empty.u16.length ≤ 8 ∧ Adv.empty.u32.length ≤ 4 ∧ Adv.empty.u128.length ≤ 2 := by
  decide

theorem test_meets_ManufacturerBytesAppendUpToSixteen :
    fullAdv.mfg.length ≤ 16 ∧ Adv.empty.mfg.length ≤ 16 := by decide

theorem test_meets_OtherTypesTakeASlot :
    ((0x00 : Byte) = 0x00 ∨ ((0x08 : Byte) ≤ 0x00 ∧ (0x00 : Byte) ≤ 0xFE)) ∧
      ((0x08 : Byte) = 0x00 ∨ ((0x08 : Byte) ≤ 0x08 ∧ (0x08 : Byte) ≤ 0xFE)) ∧
      ((0xFE : Byte) = 0x00 ∨ ((0x08 : Byte) ≤ 0xFE ∧ (0xFE : Byte) ≤ 0xFE)) ∧
      ({ fullAdv with oth := fullAdv.oth.take 3 } : Adv).oth.length < 4 ∧ 4 ≤ fullAdv.oth.length := by decide

/-- A full record and an empty one, and in them a slot taken and a slot free. -/
theorem test_meets_ParsedCountsStayInRange :
    let s : State := { State.reset with adv := fullAdv }
    s.adv.InRange ∧ State.reset.adv.InRange ∧ s.adv.flags = some 0x06 ∧ State.reset.adv.flags = none ∧
      s.adv.oth[((3 : Fin 4) : Nat)]? = some ⟨0x09, List.replicate 16 0x41⟩ ∧
      State.reset.adv.oth[((0 : Fin 4) : Nat)]? = none := by decide

theorem test_meets_AdvertisedUuidIsFound :
    ((0x02 : Byte) = 0x02 ∨ (0x02 : Byte) = 0x03) ∧ ((0x03 : Byte) = 0x02 ∨ (0x03 : Byte) = 0x03) := by decide

theorem test_meets_ShortBlocksRejected :
    (spark.take 22).length < 23 ∧ 23 ≤ (spark.take 23).length ∧ ([] : List Byte).length < 23 := by decide

theorem test_meets_HeaderCapturedWhateverTheResult : 23 ≤ (List.replicate 23 (0 : Byte)).length := by decide

/-- With both checks enabled, the Spark block passes; each changed byte fails its check and none before it. -/
theorem test_meets_FirstFailingFrameCheckDecides :
    let magicOk := fun B : List Byte => ∀ j : Fin 4, byteAt B j = tcfg.magic[j]
    let dirOk := fun B : List Byte => ∀ j : Fin 2, byteAt B (4 + j) = tcfg.dirFrom[j]
    let trailerOk := fun B : List Byte => trlEn 0b101 = true → byteAt B (B.length - 1) = 0xF7
    let csumOk := fun B : List Byte => csumEn 0b101 = true → xorFold (slice B 22 (B.length - 23)) = byteAt B 19
    23 ≤ spark.length ∧ ¬ magicOk (spark.set 0 0x02) ∧
      (magicOk (spark.set 5 0xFE) ∧ ¬ dirOk (spark.set 5 0xFE)) ∧
      (magicOk (spark.set 16 0xF1) ∧ dirOk (spark.set 16 0xF1) ∧ byteAt (spark.set 16 0xF1) 16 ≠ 0xF0) ∧
      (magicOk (spark.set 17 0x02) ∧ dirOk (spark.set 17 0x02) ∧ byteAt (spark.set 17 0x02) 16 = 0xF0 ∧
        byteAt (spark.set 17 0x02) 17 ≠ tcfg.sysexId) ∧
      (magicOk (spark.set 29 0x00) ∧ dirOk (spark.set 29 0x00) ∧ byteAt (spark.set 29 0x00) 16 = 0xF0 ∧
        byteAt (spark.set 29 0x00) 17 = tcfg.sysexId ∧ ¬ trailerOk (spark.set 29 0x00)) ∧
      (magicOk (spark.set 19 0x5F) ∧ dirOk (spark.set 19 0x5F) ∧ byteAt (spark.set 19 0x5F) 16 = 0xF0 ∧
        byteAt (spark.set 19 0x5F) 17 = tcfg.sysexId ∧ trailerOk (spark.set 19 0x5F) ∧ ¬ csumOk (spark.set 19 0x5F)) := by
  decide

theorem test_meets_framePasses : framePasses tcfg spark 0b101 := by unfold framePasses; decide

theorem test_meets_UnpackedExactlyWhenFramePasses :
    23 ≤ spark.length ∧ framePasses tcfg spark 0b101 ∧ (spark.take 22).length < 23 ∧
      ¬ framePasses tcfg (spark.set 19 0x5F) 0b101 :=
  ⟨by decide, test_meets_framePasses, by decide, by unfold framePasses; decide⟩

/-- V14 (no length prefix), V18 (name past the end), V17 (not UTF-8), V13 (other message), and a code that is no success. -/
theorem test_meets_AmpNameDecodedWithinBounds_frames :
    framePasses tcfg (buildBlock tcfg 0x00 0x03 0x11 []) 0b001 ∧
      framePasses tcfg (buildBlock tcfg 0x04 0x03 0x11 [0x00, 0x06, 0x53, 0x70, 0x61, 0x72, 0x6B]) 0b001 ∧
      framePasses tcfg (buildBlock tcfg 0x02 0x03 0x11 [0x02, 0x01, 0x7F]) 0b001 ∧
      framePasses tcfg (buildBlock tcfg 0x00 0x09 0x99 []) 0b001 ∧
      framePasses tcfg (buildBlock tcfg 0x03 0x03 0x11 [0x00, 0x05, 0x00, 0x53, 0x70, 0x61, 0x72, 0x6B]) 0b011 := by
  unfold framePasses; decide

/-- The other hypotheses of each clause, on the unpacked payloads of those blocks and of the Spark block. -/
theorem test_meets_AmpNameDecodedWithinBounds_clauses :
    23 ≤ (buildBlock tcfg 0x00 0x03 0x11 []).length ∧
      ¬ (byteAt (buildBlock tcfg 0x00 0x09 0x99 []) 20 = 0x03 ∧ byteAt (buildBlock tcfg 0x00 0x09 0x99 []) 21 = 0x11) ∧
      byteAt spark 20 = 0x03 ∧ byteAt spark 21 = 0x11 ∧ unpack7 [] = [] ∧
      (unpack7 [0x00, 0x06, 0x53, 0x70, 0x61, 0x72, 0x6B]).length <
        1 + ((unpack7 [0x00, 0x06, 0x53, 0x70, 0x61, 0x72, 0x6B]).getD 0 0).toNat ∧
      (unpack7 [0x02, 0x01, 0x7F] ≠ [] ∧ 1 + ((unpack7 [0x02, 0x01, 0x7F]).getD 0 0).toNat ≤
          (unpack7 [0x02, 0x01, 0x7F]).length ∧ utf8Valid (slice (unpack7 [0x02, 0x01, 0x7F]) 1 1) = false) ∧
      (unpack7 (packedPayload spark) ≠ [] ∧ 1 + ((unpack7 (packedPayload spark)).getD 0 0).toNat ≤
          (unpack7 (packedPayload spark)).length ∧ utf8Valid (slice (unpack7 (packedPayload spark)) 1 5) = true) ∧
      (decodeBlock tcfg (buildBlock tcfg 0x00 0x09 0x99 []) 0b001).code ≠ .okAmpname := by decide

theorem test_meets_Utf8AcceptsExactlyTheTable :
    1 + (0x01 : Byte).toNat ≤ [(0x01 : Byte), 0xFF].length ∧ 1 + (0x00 : Byte).toNat ≤ [(0x00 : Byte)].length := by decide

/-- A block with this block's own magic and the to-device tag, in both byte orders. -/
theorem test_meets_ToDeviceTagRejected (tag : List Byte) (h : tag = [0x53, 0xFE] ∨ tag = [0xFE, 0x53]) :
    23 ≤ (Config.params.magic.toList ++ tag ++ List.replicate 17 0).length ∧
      (∀ j : Fin 4, byteAt (Config.params.magic.toList ++ tag ++ List.replicate 17 0) j = Config.params.magic[j]) ∧
      slice (Config.params.magic.toList ++ tag ++ List.replicate 17 0) 4 2 = tag := by
  have hlen : tag.length = 2 := by rcases h with rfl | rfl <;> rfl
  refine ⟨by simp [hlen], fun j => ?_, ?_⟩
  · have hj := j.isLt
    rw [byteAt, List.getD, List.append_assoc, List.getElem?_append_left (by simp)]
    simp
  · rw [slice, List.append_assoc, List.drop_append_of_le_length (by simp)]
    rw [show List.drop 4 Config.params.magic.toList = [] from List.drop_eq_nil_of_le (by simp)]
    rw [List.nil_append, List.take_append_of_le_length (by omega), List.take_of_length_le (by omega)]

theorem test_meets_SizeAndReservedBytesNotChecked :
    (((spark.set 6 0x17).set 10 0x55).set 15 0xAA).length = spark.length ∧ 23 ≤ spark.length ∧
      ∀ i < 30, i < 6 ∨ 16 ≤ i → (((spark.set 6 0x17).set 10 0x55).set 15 0xAA)[i]? = spark[i]? := by decide

/-- The hypothesis over every index, past the end included. -/
theorem test_meets_SizeAndReservedBytesNotChecked_all (i : Nat) (h : i < 6 ∨ 16 ≤ i) :
    (((spark.set 6 0x17).set 10 0x55).set 15 0xAA)[i]? = spark[i]? := by
  rw [List.getElem?_set_ne (by omega), List.getElem?_set_ne (by omega), List.getElem?_set_ne (by omega)]

theorem test_meets_SingleCorruptedByteRejected :
    framePasses tcfg spark 0b101 ∧ csumEn 0b101 = true ∧ 22 ≤ 22 ∧ 28 + 1 < spark.length ∧ spark[22]? ≠ some 0x7F ∧
      spark[28]? ≠ some 0x00 := ⟨test_meets_framePasses, by decide⟩

theorem test_meets_UnpackerWorksByGroups :
    ([] : List Byte).length ≤ 7 ∧ (List.replicate 7 (0x7F : Byte)).length ≤ 7 ∧
      (List.replicate 7 (0x7F : Byte)).length = 7 ∧ 6 < (List.replicate 7 (0x7F : Byte)).length ∧
      (List.replicate 7 (0x7F : Byte))[6]? = some 0x7F := by decide

theorem test_meets_UnpackedLengthLaw :
    (List.replicate 232 (0 : Byte)).length ≤ 232 ∧ (List.replicate 255 (0 : Byte)).length ≤ 255 :=
  ⟨List.length_replicate.le, List.length_replicate.le⟩

/-- A name of letters is UTF-8 (41 R203, first row). -/
theorem test_letters_are_utf8 (n : Nat) : utf8Valid (List.replicate n 0x41) = true := by
  induction n with
  | zero => rfl
  | succ n ih => exact ih

/-- The built block of a name of 202 bytes. -/
theorem test_meets_BuiltAmpNameBlockDecodes :
    let B := buildBlock Config.params 0x2A 0x03 0x11 (pack7 (BitVec.ofNat 8 202 :: List.replicate 202 0x41))
    (completing .blkDecode State.reset B).Completes .blkDecode (snap State.reset B) ∧
      nameOff2 (snap State.reset B).ctrl = false ∧ utf8Valid (List.replicate 202 (0x41 : Byte)) = true ∧
      (List.replicate 202 (0x41 : Byte)).length ≤ 202 ∧ (snap State.reset B).input = B :=
  ⟨⟨rfl, rfl⟩, rfl, test_letters_are_utf8 202, List.length_replicate.le, rfl⟩

theorem test_meets_EveryRegisterHasItsOffset :
    0x400 % 4 = 0 ∧ regAligned 0x400 = some (.inBuf 0) ∧ regAligned 0x6DC = some (.unpBuf 55) := by decide

/-- The first address past the window. -/
theorem test_meets_WindowReachedByItsAddresses :
    ¬ (Config.base ≤ Config.base + 0x1000 ∧ Config.base + 0x1000 ≤ Config.base + 0xFFF) ∧
      (idleBus (.read 32 (placeOf (Config.base + 0x1000)))).HostNext (.read 32 (placeOf (Config.base + 0x1000))) ∧
      (idleBus (.write 32 (placeOf (Config.base + 0x1000)) 1)).HostNext
        (.write 32 (placeOf (Config.base + 0x1000)) 1) :=
  ⟨by omega, ⟨rfl, rfl⟩, rfl, rfl⟩

theorem test_meets_BusErrorChangesNothing :
    ((8 ≠ 32 ∨ (0x004 : BitVec 12).toNat % 4 ≠ 0) ∧
        (idleBus (.write 8 (.window 0x004) 3)).HostNext (.write 8 (.window 0x004) 3)) ∧
      ((32 ≠ 32 ∨ (0xFFF : BitVec 12).toNat % 4 ≠ 0) ∧
        (idleBus (.read 32 (.window 0xFFF))).HostNext (.read 32 (.window 0xFFF))) := by decide

/-- 0x300 and 0xFFC are unmapped (10 R22). -/
theorem test_meets_UnmappedOffsetsReadZero (r : Reg) : r.offset ≠ 0x300 ∧ r.offset ≠ 0xFFC :=
  ⟨regAligned_none (by decide) r, regAligned_none (by decide) r⟩

theorem test_meets_UnmappedOffsetsReadZero_access :
    (0x300 : BitVec 12).toNat % 4 = 0 ∧ (0xFFC : BitVec 12).toNat % 4 = 0 ∧
      (idleBus (.read 32 (.window 0x300))).HostNext (.read 32 (.window 0x300)) ∧
      (idleBus (.write 32 (.window 0xFFC) 1)).HostNext (.write 32 (.window 0xFFC) 1) := by decide

theorem test_meets_ReadOnlyWritesIgnored :
    (idleBus (hostWrite (BitVec.ofNat 12 Reg.status.offset) 0xFFFFFFFF)).HostNext
        (hostWrite (BitVec.ofNat 12 Reg.status.offset) 0xFFFFFFFF) ∧
      (Reg.unpBuf 55).isResult = true ∧
      (busyBus (hostWrite (BitVec.ofNat 12 (Reg.unpBuf 55).offset) 1)).HostNext
        (hostWrite (BitVec.ofNat 12 (Reg.unpBuf 55).offset) 1) ∧
      (busyBus (hostRead 0x004)).HostNext (hostRead 0x004) := by decide

theorem test_meets_BusyInputWritesDropped :
    (busyBus (hostWrite (BitVec.ofNat 12 Reg.cmd.offset) 5)).pending ≠ none ∧
      (busyBus (hostWrite (BitVec.ofNat 12 Reg.cmd.offset) 5)).HostNext (hostWrite (BitVec.ofNat 12 Reg.cmd.offset) 5) ∧
      (busyBus (hostWrite (BitVec.ofNat 12 (Reg.inBuf 63).offset) 5)).HostNext
        (hostWrite (BitVec.ofNat 12 (Reg.inBuf 63).offset) 5) := by decide

theorem test_meets_InputRegistersReadBack (r : Reg) :
    let s : State := { State.reset with
      bus := hostWrite (BitVec.ofNat 12 r.offset) 0xFFFFFFFF :: hostRead (BitVec.ofNat 12 r.offset) :: [] }
    s.pending = none ∧
      s.bus = hostWrite (BitVec.ofNat 12 r.offset) 0xFFFFFFFF :: hostRead (BitVec.ofNat 12 r.offset) :: [] := ⟨rfl, rfl⟩

/-- Each kind of register with its mask, and the addresses beside the last word of IN_BUF. -/
theorem test_meets_InputRegistersReadBack_clauses :
    (∀ r ∈ [(Reg.ctrl, (0x7 : Word)), (.inLen, 0xFF), (.qKind, 0x3), (.qVal 0, 0xFFFFFFFF), (.qVal 1, 0xFFFFFFFF),
        (.qVal 2, 0xFFFFFFFF), (.qVal 3, 0xFFFFFFFF), (.inBuf 63, 0xFFFFFFFF)],
      (r.1 = .ctrl ∧ r.2 = 0x7) ∨ (r.1 = .inLen ∧ r.2 = 0xFF) ∨ (r.1 = .qKind ∧ r.2 = 0x3) ∨
        ((∃ i, r.1 = .qVal i) ∨ ∃ w, r.1 = .inBuf w) ∧ r.2 = 0xFFFFFFFF) ∧
      251 < 4 * ((63 : Fin 64) : Nat) ∧ 4 * ((63 : Fin 64) : Nat) + 4 ≤ 256 := ⟨by simp, by decide, by decide⟩

theorem test_meets_InBufWordWriteStoresFourBytes :
    (idleBus (hostWrite (BitVec.ofNat 12 (0x400 + 4 * 63)) 1)).pending = none ∧
      (idleBus (hostWrite (BitVec.ofNat 12 (0x400 + 4 * 63)) 1)).HostNext
        (hostWrite (BitVec.ofNat 12 (0x400 + 4 * 63)) 1) := by decide

theorem test_meets_InBufReadsWrittenBytes :
    (idleBus (hostRead (BitVec.ofNat 12 (0x400 + 4 * 0)))).HostNext (hostRead (BitVec.ofNat 12 (0x400 + 4 * 0))) ∧
      Memory.get (fill 0 [0xAA, 0xBB]) (4 * 0 + 1) = some 0xBB := by decide

theorem test_meets_RegisterReadAnswers :
    (idleBus (hostRead (BitVec.ofNat 12 Reg.decRes.offset))).HostNext (hostRead (BitVec.ofNat 12 Reg.decRes.offset)) ∧
      (idleBus (hostRead (BitVec.ofNat 12 Reg.decRes.offset))).pending = none ∧
      (busyBus (hostRead (BitVec.ofNat 12 Reg.status.offset))).HostNext
        (hostRead (BitVec.ofNat 12 Reg.status.offset)) ∧ Reg.status.isResult = false ∧
      (busyBus (hostRead (BitVec.ofNat 12 Reg.qRes.offset))).HostNext (hostRead (BitVec.ofNat 12 Reg.qRes.offset)) ∧
      (busyBus (hostRead (BitVec.ofNat 12 Reg.qRes.offset))).pending ≠ none ∧ Reg.qRes.isResult = true := by decide

theorem test_meets_RegisterReadAnswers_longest :
    let s : State := { State.reset with dec := { Dec.cleared with unp := List.replicate 223 0x41 } }
    s.dec.unp.length ≤ 223 := List.length_replicate.le

theorem test_meets_ReadsHaveNoSideEffect :
    (idleBus (.read 16 (.window 0x001))).HostNext (.read 16 (.window 0x001)) ∧
      (busyBus (.read 32 (.elsewhere 0x10000))).HostNext (.read 32 (.elsewhere 0x10000)) := by decide

theorem test_meets_ByteArraysPackedLittleEndian :
    Memory.get (loaded [0x11, 0x22, 0x33, 0x44, 0x55]).inBuf (4 * 1 + 0) = some 0x55 := by decide

theorem test_meets_ResetLeavesTheStatedValues (w : Fin 64) : Reg.ctrl ≠ .inBuf w ∧ Reg.unpBuf 0 ≠ .inBuf w :=
  ⟨nofun, nofun⟩

theorem test_meets_ResetDiscardsPendingCommand :
    (busyBus .reset).HostNext .reset ∧ (busyBus .reset).pending ≠ none := by decide

/-- The invariant holds of a block with a command pending, and its step answers a next state. -/
theorem test_meets_StepKeepsInvariant :
    (busyBus (hostRead 0x008)).Inv ∧ ∃ t, step (busyBus (hostRead 0x008)) = .next t := by
  refine ⟨⟨by decide, by decide, by decide, by decide, by decide, ?_⟩, _, rfl⟩
  intro p hp
  injection hp with hp
  subst hp
  decide

theorem test_meets_StickyBitsClearedOnlyByClearAndReset :
    (∃ t, step { busyBus (hostWrite 0x00C 5) with ill := true } = .next t) ∧
      ∃ t, step (completing .clear { State.reset with ill := true } []) = .next t := ⟨⟨_, rfl⟩, _, rfl⟩

theorem test_meets_ResultsStableBetweenCompletions :
    (∃ t, step (completing .xsum State.reset [0x01]) = .next t) ∧
      ¬ (completing .xsum State.reset [0x01]).HostNext .reset ∧
      (completing .xsum State.reset [0x01]).engineReady = some ⟨.xsum, snap State.reset [0x01]⟩ ∧
      Cmd.xsum ∉ ([.advParse, .clear] : List Cmd) ∧ Cmd.xsum ∉ ([.blkDecode, .unpack7, .clear] : List Cmd) ∧
      Cmd.xsum ∉ ([.advParse, .svcQuery, .clear] : List Cmd) ∧ Cmd.advParse ∉ ([.xsum, .clear] : List Cmd) :=
  ⟨⟨_, rfl⟩, by decide⟩

theorem test_meets_PendingCommandCompletes :
    (busyBus (hostRead 0x008)).pending = some ⟨.blkDecode, snap State.reset []⟩ ∧
      HostStep.reset ∉ (busyBus (hostRead 0x008)).bus := by decide

/-- The longest list, with its last byte, the one byte of padding and the first address past its last word. -/
theorem test_meets_LoadPlacesTheInput :
    let B : List Byte := List.replicate 255 0x41
    let s : State := { State.reset with bus := hostLoad B ++ hostRun .xsum 1 }
    B.length ≤ 255 ∧ s.pending = none ∧ s.bus = hostLoad B ++ hostRun .xsum 1 ∧ 254 < B.length ∧
      (B.length ≤ 255 ∧ 255 < 4 * ((B.length + 3) / 4)) ∧ 4 * ((B.length + 3) / 4) ≤ 256 := by
  refine ⟨List.length_replicate.le, rfl, rfl, ?_⟩
  simp only [List.length_replicate]; decide

end Sys2Proof.Tests
end

section
/-! PROOFS. The register map (10 R22) and what the registers read after reset (10 R48). -/

namespace Sys2Proof.Machine

/-! ### The register map -/

/-- An array of consecutive words stands in rising order of offset. -/
theorem Reg.wordArray_rising {n base : Nat} {f : Fin n → Reg} (h : ∀ i, (f i).offset = base + 4 * i) :
    ((List.finRange n).map f).IsChain fun r r' => r.offset < r'.offset := by
  refine (List.isChain_map f).2 ((List.pairwise_lt_finRange n).imp fun hij => ?_).isChain
  rw [h, h]
  omega

/-- The map lists its registers in rising order of offset (10 R22). The list is cut into its parts below 0x200, the DEC
group, IN_BUF and UNP_BUF; what is left to `decide` is the first two parts and the three seams. -/
theorem Reg.all_rising : Reg.all.IsChain fun r r' => r.offset < r'.offset := by
  unfold Reg.all
  refine .append (.append (.append ?below200 ?decGroup ?_) (wordArray_rising fun _ => rfl) ?_)
    (wordArray_rising fun _ => rfl) ?_
  all_goals decide

/-- No two registers share an offset (10 R22). -/
theorem Reg.offset_injective : Function.Injective Reg.offset := fun r r' h =>
  have hrising : (Reg.all.map Reg.offset).Pairwise (· < ·) :=
    ((List.isChain_map Reg.offset).2 Reg.all_rising).pairwise
  List.inj_on_of_nodup_map hrising.nodup r.mem_all r'.mem_all h

/-- A register is found at its offset (10 R22). -/
@[simp] theorem regAligned_offset (r : Reg) : regAligned r.offset = some r := by
  cases h : regAligned r.offset with
  | none => exact absurd rfl (regAligned_none h r)
  | some r' => rw [Reg.offset_injective (regAligned_some h)]

/-- Every register is word-aligned (10 R22). -/
theorem Reg.offset_aligned (r : Reg) : r.offset % 4 = 0 := by
  cases r <;> simp only [Reg.offset] <;> omega

/-- Every register lies in the 4 KiB window (10 R22). -/
theorem Reg.offset_lt (r : Reg) : r.offset < 0x1000 := by
  cases r <;> simp only [Reg.offset] <;> omega

/-- Settles O40: each clause of the map is `regAligned_offset` at that register, whose offset is the number written. -/
theorem everyRegisterHasItsOffset : Obligations.EveryRegisterHasItsOffset :=
  ⟨fun r => ⟨r.offset_aligned, r.offset_lt, regAligned_offset r⟩, fun _ _ _ => regAligned_some,
    regAligned_offset .ctrl, regAligned_offset .cmd, regAligned_offset .status, regAligned_offset .inLen,
    regAligned_offset .qKind, fun i => regAligned_offset (.qVal i), regAligned_offset .qRes,
    regAligned_offset .xsumRes, regAligned_offset .advFlags, regAligned_offset .advCnt, regAligned_offset .advMfgLen,
    fun i => regAligned_offset (.advU16 i), fun i => regAligned_offset (.advU32 i),
    fun k w => regAligned_offset (.advU128 k w), fun w => regAligned_offset (.advMfg w),
    fun k => regAligned_offset (.othDesc k), fun k w => regAligned_offset (.othData k w), regAligned_offset .decRes,
    regAligned_offset .decHdr, regAligned_offset .decCsum, regAligned_offset .decUnp, regAligned_offset .decName,
    fun w => regAligned_offset (.inBuf w), fun w => regAligned_offset (.unpBuf w)⟩

/-! ### The registers after reset -/

/-- Every word of an empty byte array is 0 (20 R68). -/
@[simp] theorem packWord_nil (w : Nat) : packWord [] w = 0 := by
  simp [packWord]

/-- What every register but IN_BUF holds after reset (10 R48). -/
theorem regValue_reset {r : Reg} (h : ∀ w, r ≠ .inBuf w) :
    State.reset.regValue r = if r = .ctrl then 0x00000001 else if r = .decRes then 0x0000000F else 0 := by
  cases r with
  | inBuf w => exact absurd rfl (h w)
  | qVal i => simp [State.regValue, State.reset]
  | advU128 k w => simp [State.regValue, State.reset, Adv.empty]
  | advMfg w => exact packWord_nil w
  | unpBuf w => exact packWord_nil w
  | _ => rfl

/-- Settles O53: `regValue_reset` for the registers, and the empty IN_BUF for its bytes. -/
theorem resetLeavesTheStatedValues : Obligations.ResetLeavesTheStatedValues :=
  ⟨fun _ => regValue_reset, Memory.get_nil, rfl⟩

end Sys2Proof.Machine
end

section
/-! PROOFS. The bus rules of the register window (20_memory.md): which addresses reach it, what the host's next step does
to the block, and the byte arrays in their words. -/

namespace Sys2Proof.Machine

/-! ### The window's addresses (20 R61) -/

/-- A byte address reaches the offset it stands at above BASE. -/
theorem placeOf_eq_window {A : Nat} {off : BitVec 12} : placeOf A = .window off ↔ A = Config.base + off.toNat := by
  have hoff := off.isLt
  unfold placeOf
  split
  · rw [Place.window.injEq, ← BitVec.toNat_inj, BitVec.toNat_ofNat]
    omega
  · simp only [reduceCtorEq, false_iff]
    omega

/-- An address outside the window goes elsewhere. -/
theorem placeOf_outside {A : Nat} (h : ¬ (Config.base ≤ A ∧ A ≤ Config.base + 0xFFF)) : placeOf A = .elsewhere A :=
  if_neg h

/-- The addresses that reach the window are BASE to BASE + 0xFFF. -/
theorem exists_placeOf_eq_window {A : Nat} :
    (∃ off, placeOf A = .window off) ↔ Config.base ≤ A ∧ A ≤ Config.base + 0xFFF := by
  constructor
  · rintro ⟨off, h⟩
    have hoff := off.isLt
    have hA := placeOf_eq_window.1 h
    omega
  · exact fun h => ⟨_, if_pos h⟩

/-! ### The host's step -/

/-- A host step that presents no command acts on the window. -/
theorem step_hostAccess {s : State} {h : HostStep} (hn : s.HostNext h) (hc : cmdWord h = none) :
    step s = .next (s.hostTurn.hostAccess h) := by
  obtain ⟨hready, hhead⟩ := hn
  obtain ⟨rest, hbus⟩ := List.head?_eq_some_iff.1 hhead
  simp only [step, hready, hbus, hc]

/-- A good write of CMD runs the command it presents (43 R240). -/
theorem step_cmdWrite {s : State} {v : Word} (hn : s.HostNext (hostWrite 0x004 v)) :
    step s = exec (decode v) s.cmdTurn := by
  obtain ⟨hready, hhead⟩ := hn
  obtain ⟨rest, hbus⟩ := List.head?_eq_some_iff.1 hhead
  simp only [step, hready, hbus, cmdWord_hostWrite_cmd]

/-- A CMD write while a command is pending is dropped, whatever command it presents (43 R244). -/
theorem exec_host_busy (i : Instr) {s : State} (hm : s.mover = .host) (hb : s.busy = true) :
    exec i s = .next s.dropWrite := by
  by_cases hi : ∃ op : Cmd, i = op.instr
  · obtain ⟨op, rfl⟩ := hi
    rw [exec_instr, runCommand_issues (State.completing_host hm), issue, if_pos hb]
  · obtain ⟨_, _, hx⟩ := exec_unaccepted (s := s) fun op hop => hi ⟨op, hop⟩
    rw [hx, if_pos hb]

/-- That the host takes its turn is not seen in the block. -/
@[simp] theorem block_hostTurn (s : State) : s.hostTurn.block = s.block := rfl

/-- No read of the window changes the block (20 R74). -/
@[simp] theorem block_readWindow (s : State) (bits : Nat) (off : BitVec 12) :
    (s.readWindow bits off).block = s.block := by
  rw [readWindow_frame]
  rfl

/-! ### Accesses that name no register (20 R64, R65) -/

/-- An access of another width or alignment is no good access (20 R63, R64). -/
theorem goodAccess_eq_false {bits : Nat} {off : BitVec 12} (h : bits ≠ 32 ∨ off.toNat % 4 ≠ 0) :
    goodAccess bits off = false := by
  simpa [goodAccess, imp_iff_not_or] using h

/-- An aligned 32-bit access is a good access (20 R63). -/
theorem goodAccess_aligned {off : BitVec 12} (h : off.toNat % 4 = 0) : goodAccess 32 off = true := by
  simp [goodAccess, h]

/-- No register is found at an offset at which none stands (20 R65). -/
theorem regAligned_unmapped {n : Nat} (h : ∀ r : Reg, r.offset ≠ n) : regAligned n = none :=
  List.find?_eq_none.2 fun r _ => by simpa using h r

/-- A read that is no good access gets the bus error (20 R64). -/
theorem readWindow_error (s : State) {bits : Nat} {off : BitVec 12} (h : goodAccess bits off = false) :
    s.readWindow bits off = { s with resp := some (.readError 0) } := by
  simp [State.readWindow, h]

/-- A write that is no good access gets the bus error (20 R64). -/
theorem writeWindow_error (s : State) {bits : Nat} {off : BitVec 12} (v : Word) (h : goodAccess bits off = false) :
    s.writeWindow bits off v = { s with resp := some .writeError } := by
  simp [State.writeWindow, h]

/-- A good read of an unmapped offset answers 0 (20 R65). -/
theorem readWindow_unmapped (s : State) {off : BitVec 12} (hg : goodAccess 32 off = true)
    (hr : regAligned off.toNat = none) : s.readWindow 32 off = { s with resp := some (.readOk 0) } := by
  simp [State.readWindow, hg, hr]

/-- A good write of an unmapped offset is ignored (20 R65). -/
theorem writeWindow_unmapped (s : State) {off : BitVec 12} (v : Word) (hg : goodAccess 32 off = true)
    (hr : regAligned off.toNat = none) : s.writeWindow 32 off v = { s with resp := some .writeOk } := by
  simp [State.writeWindow, hg, hr]

/-! ### Good accesses to a register -/

/-- A register's offset as a 12-bit offset of the window (10 R22). -/
theorem Reg.toNat_offset (r : Reg) : (BitVec.ofNat 12 r.offset).toNat = r.offset :=
  (BitVec.toNat_ofNat _ _).trans (Nat.mod_eq_of_lt r.offset_lt)

/-- A 32-bit access at a register's offset is a good access (20 R63). -/
@[simp] theorem Reg.goodAccess_offset (r : Reg) : goodAccess 32 (BitVec.ofNat 12 r.offset) = true :=
  goodAccess_aligned (by rw [r.toNat_offset, r.offset_aligned])

/-- CMD alone stands at offset 4 (10 R22). -/
theorem Reg.offset_ne_cmd {r : Reg} (h : r ≠ .cmd) : BitVec.ofNat 12 r.offset ≠ 4 := fun he =>
  h (Reg.offset_injective (r.toNat_offset.symm.trans (congrArg BitVec.toNat he)))

/-- A good read of a register answers what `readReg` says (20 R63). -/
theorem readWindow_offset (s : State) (r : Reg) :
    s.readWindow 32 (BitVec.ofNat 12 r.offset) =
      { s with resp := some (.readOk (s.readReg r)), draws := s.draws + readDraws } := by
  simp only [State.readWindow, r.goodAccess_offset, r.toNat_offset, regAligned_offset, if_true]

/-- A good write of a register is that register's write, answered without error (20 R63). -/
theorem writeWindow_offset (s : State) (v : Word) (r : Reg) :
    s.writeWindow 32 (BitVec.ofNat 12 r.offset) v = { s.writeReg v r with resp := some .writeOk } := by
  simp only [State.writeWindow, r.goodAccess_offset, r.toNat_offset, regAligned_offset, if_true]

/-- A read of a register, busy or not, answers what `readReg` says and changes nothing of the block (20 R74). -/
theorem step_readReg {s : State} {r : Reg} (hn : s.HostNext (hostRead (BitVec.ofNat 12 r.offset))) :
    ∃ t, step s = .next t ∧ t.block = s.block ∧ t.resp = some (.readOk (s.hostTurn.readReg r)) :=
  ⟨_, step_hostAccess hn rfl, block_readWindow _ _ _, congrArg State.resp (readWindow_offset s.hostTurn r)⟩

/-- A write of a register other than CMD is that register's write, answered without error. -/
theorem step_writeReg {s : State} {r : Reg} {v : Word} (hr : r ≠ .cmd)
    (hn : s.HostNext (hostWrite (BitVec.ofNat 12 r.offset) v)) :
    step s = .next { s.hostTurn.writeReg v r with resp := some .writeOk } :=
  (step_hostAccess hn (cmdWord_window_ne (.inr (Reg.offset_ne_cmd hr)))).trans
    (congrArg _ (writeWindow_offset s.hostTurn v r))

/-- A write to a register that is no input register does nothing, busy or not (20 R67). -/
theorem writeReg_readOnly (s : State) (v : Word) {r : Reg} (hr : r.isInput = false) : s.writeReg v r = s := by
  simp [State.writeReg, hr, storeReg_readOnly v hr]

/-- The registers a write does not change are STATUS, the result registers and CMD (20 R67, 10 R24). -/
theorem Reg.isInput_eq_false {r : Reg} : r.isInput = false ↔ r = .cmd ∨ r = .status ∨ r.isResult = true := by
  cases r <;> simp [Reg.isInput, Reg.isResult]

/-! ### The byte arrays (20 R68 to R70) -/

/-- A written byte has the value it was written with. -/
theorem inByte_of_get {s : State} {j : Nat} {b : Byte} (h : Memory.get s.inBuf j = some b) : s.inByte j = b := by
  simp [State.inByte, h]

/-- Each written byte stands in its place in the IN_BUF word (20 R70). -/
theorem byteOf_inWord_of_get {s : State} {w : Nat} {k : Fin 4} {b : Byte}
    (h : Memory.get s.inBuf (4 * w + k) = some b) : byteOf (s.inWord w) k = b := by
  rw [byteOf_inWord, inByte_of_get h]

/-- A word write stores byte `k` of the word at `4w+k` (20 R69). -/
theorem get_putInWord_byte (s : State) (w : Nat) (v : Word) (k : Fin 4) :
    Memory.get (s.putInWord w v).inBuf (4 * w + k) = some (byteOf v k) := by
  rw [get_putInWord]
  fin_cases k <;> simp

/-- A word write leaves every byte of the other words as it was (20 R69). -/
theorem get_putInWord_outside (s : State) (w : Nat) (v : Word) {a : Nat} (h : a < 4 * w ∨ 4 * w + 4 ≤ a) :
    Memory.get (s.putInWord w v).inBuf a = Memory.get s.inBuf a := by
  rw [get_putInWord, if_neg (by omega), if_neg (by omega), if_neg (by omega), if_neg (by omega)]

/-- Byte `k` of a word of an ADV_OTH slot's data, where there is such a slot, else 0 (10 R37, 20 R68). -/
theorem byteOf_othDataWord (a : Adv) (i w : Nat) (k : Fin 4) :
    byteOf (a.othDataWord i w) k = ((a.oth[i]?.map OthSlot.bytes).getD []).getD (4 * w + k) 0 := by
  unfold Adv.othDataWord
  cases a.oth[i]? with
  | none => simp [byteOf]
  | some o => exact byteOf_packWord o.bytes w k

/-! ### The obligations -/

/-- Settles O41: the two facts about `placeOf`, and a step to an address elsewhere takes the host's turn only. -/
theorem windowReachedByItsAddresses : Obligations.WindowReachedByItsAddresses := by
  refine ⟨fun _ _ => placeOf_eq_window, fun _ => exists_placeOf_eq_window, fun s bits A v hA => ?_⟩
  rw [placeOf_outside hA]
  exact ⟨fun hn => ⟨_, step_hostAccess hn rfl, block_hostTurn s⟩,
    fun hn => ⟨_, step_hostAccess hn rfl, block_hostTurn s⟩⟩

/-- Settles O42: such an access is no good access, so it presents no command and gets the bus error. -/
theorem busErrorChangesNothing : Obligations.BusErrorChangesNothing := by
  intro s bits off v h
  have hbad := goodAccess_eq_false h
  have hcmd : bits ≠ 32 ∨ off ≠ 4 := h.imp_right fun hoff he => hoff (by simp [he])
  refine ⟨fun hn => ⟨_, step_hostAccess hn rfl, ?_⟩, fun hn => ⟨_, step_hostAccess hn (cmdWord_window_ne hcmd), ?_⟩⟩
  · rw [State.hostAccess, readWindow_error _ hbad]
    exact ⟨rfl, rfl⟩
  · rw [State.hostAccess, writeWindow_error _ v hbad]
    exact ⟨rfl, rfl⟩

/-- Settles O43: no register is found there, so the read answers 0 and the write is ignored; CMD's offset is mapped. -/
theorem unmappedOffsetsReadZero : Obligations.UnmappedOffsetsReadZero := by
  intro s off v haligned hunmapped
  have hgood := goodAccess_aligned haligned
  have hreg := regAligned_unmapped hunmapped
  have hcmd : off ≠ 4 := fun he => hunmapped .cmd (by rw [he]; rfl)
  refine ⟨fun hn => ⟨_, step_hostAccess hn rfl, ?_⟩,
    fun hn => ⟨_, step_hostAccess hn (cmdWord_window_ne (.inr hcmd)), ?_⟩⟩
  · rw [State.hostAccess, readWindow_unmapped _ hgood hreg]
    exact ⟨rfl, rfl⟩
  · rw [State.hostAccess, writeWindow_unmapped _ v hgood hreg]
    exact ⟨rfl, rfl⟩

/-- Settles O44: a read-only register's write is `writeReg_readOnly`, and CMD holds 0. -/
theorem readOnlyWritesIgnored : Obligations.ReadOnlyWritesIgnored := by
  refine fun s r v => ⟨fun hr hn => ⟨_, step_writeReg (by rintro rfl; simp [Reg.isResult] at hr) hn, ?_⟩, fun hn => ?_⟩
  · rw [writeReg_readOnly _ v (Reg.isInput_eq_false.2 (.inr hr))]
    exact ⟨rfl, rfl⟩
  · obtain ⟨t, hstep, -, hresp⟩ := step_readReg (r := .cmd) hn
    exact ⟨t, hstep, hresp⟩

/-- Settles O45: CMD's write is dropped by the command it presents, an input register's by `writeReg_busy`. -/
theorem busyInputWritesDropped : Obligations.BusyInputWritesDropped := by
  intro s r v hr hp hn
  have hbusy : s.busy = true := Option.isSome_iff_ne_none.2 hp
  by_cases hcmd : r = .cmd
  · subst hcmd
    exact ⟨_, (step_cmdWrite hn).trans (exec_host_busy _ rfl hbusy), rfl⟩
  · have hinput : r.isInput = true := by
      obtain h | rfl | rfl | rfl | ⟨i, rfl⟩ | ⟨w, rfl⟩ := hr
      · exact absurd h hcmd
      all_goals rfl
    refine ⟨_, step_writeReg hcmd hn, ?_⟩
    rw [writeReg_busy (s := s.hostTurn) v hinput hbusy]
    rfl

/-- Settles O47: on an idle block the write of IN_BUF word `w` is `putInWord`. -/
theorem inBufWordWriteStoresFourBytes : Obligations.InBufWordWriteStoresFourBytes := by
  intro s w v hp hn
  refine ⟨_, step_writeReg (r := .inBuf w) nofun hn, ?_⟩
  rw [writeReg_idle (s := s.hostTurn) v (.inBuf w) (State.busy_eq_false.2 hp)]
  exact ⟨rfl, get_putInWord_byte s.hostTurn w v, fun a => get_putInWord_outside s.hostTurn w v⟩

/-- Settles O48: the read answers the IN_BUF word as it stands. -/
theorem inBufReadsWrittenBytes : Obligations.InBufReadsWrittenBytes := by
  intro s w hn
  obtain ⟨t, hstep, hblock, hresp⟩ := step_readReg (r := .inBuf w) hn
  exact ⟨t, _, hstep, hblock, hresp, fun _ _ hb => byteOf_inWord_of_get (s := s.hostTurn) hb⟩

/-- Settles O51: `byteOf_packWord` for the three result arrays, and the written bytes of IN_BUF. -/
theorem byteArraysPackedLittleEndian : Obligations.ByteArraysPackedLittleEndian := fun s =>
  ⟨fun w k => byteOf_packWord s.dec.unp w k, fun w k => byteOf_packWord s.adv.mfg w k,
    fun i w k => byteOf_othDataWord s.adv i w k, fun _ _ _ hb => byteOf_inWord_of_get hb⟩

end Sys2Proof.Machine
end

section
/-! PROOFS. The opcode table (30 R91, R93): every command word belongs to one row, the decoded command's own. -/

namespace Sys2Proof

/-- OP is the word's low four bits read as a number (30 R93). -/
theorem toNat_opField (v : Word) : (opField v).toNat = v.toNat % 16 := by
  simp [opField]

/-- The table covers every word: whether a row matches depends on OP alone, and each of the 16 opcodes has a row. -/
theorem exists_rowMatches (v : Word) : ∃ r ∈ opcodeTable, rowMatches v r = true := by
  unfold rowMatches
  generalize opField v = op
  revert op
  decide

/-- Table and decoder agree: a row that matches a word bears the mnemonic of the command the word decodes to. -/
theorem mnemonic_of_rowMatches {v : Word} {r : OpcodeRow} (hr : r ∈ opcodeTable) (hm : rowMatches v r = true) :
    r.mnemonic = (decode v).mnemonic := by
  unfold rowMatches at hm
  rw [decode]
  generalize opField v = op at hm ⊢
  revert op r
  decide

/-- No mnemonic names two rows of the table (30 R91). -/
theorem mnemonic_injOn_opcodeTable {r r' : OpcodeRow} (hr : r ∈ opcodeTable) (hr' : r' ∈ opcodeTable)
    (h : r.mnemonic = r'.mnemonic) : r = r' :=
  have hnodup : (opcodeTable.map OpcodeRow.mnemonic).Nodup := by decide
  List.inj_on_of_nodup_map hnodup hr hr' h

/-- Settles O2: some row matches, and any two rows that match share the decoded command's mnemonic, so are one row. -/
theorem everyWordSelectsExactlyOneRow : Obligations.EveryWordSelectsExactlyOneRow := by
  intro v
  obtain ⟨r, hr, hm⟩ := exists_rowMatches v
  have hmnem := mnemonic_of_rowMatches hr hm
  exact ⟨toNat_opField v, r, hr, hm, hmnem, fun r' hr' hm' =>
    mnemonic_injOn_opcodeTable hr' hr ((mnemonic_of_rowMatches hr' hm').trans hmnem.symm)⟩

end Sys2Proof
end

section
/-! PROOFS. The advertisement-data field extractor (40_advertisement.md): what one AD structure does to the record (R133
to R139), and the service-membership test (R146, R147). -/

namespace Sys2Proof.Machine

/-! ### Lists of bounded capacity (40 R135 to R139) -/

/-- Elements appended one by one to a list within its capacity: the first `cap` of all stay. -/
theorem foldl_appendCap {α : Type} {cap : Nat} {xs : List α} (ys : List α) (h : xs.length ≤ cap) :
    ys.foldl (appendCap cap) xs = (xs ++ ys).take cap := by
  induction ys generalizing xs with
  | nil => simp [List.take_of_length_le h]
  | cons y ys ih =>
    rw [List.foldl_cons, appendCap]
    split
    · rw [ih (by simpa), List.append_assoc, List.singleton_append]
    · have hfull : xs.length = cap := by omega
      rw [ih h, ← hfull, List.take_left, List.take_left]

/-! ### Little-endian entries (00 R8, 40 R135 to R137) -/

/-- Byte `i` of a little-endian number is byte `i` of its list, and 0 past the list's end (00 R8). -/
theorem le_div_mod (B : List Byte) (i : Nat) : le B / 2 ^ (8 * i) % 256 = (B.getD i 0).toNat := by
  induction B generalizing i with
  | nil => simp [le]
  | cons b bs ih =>
    have hb := b.isLt
    cases i with
    | zero => simp only [le, List.getD_cons_zero]; omega
    | succ i =>
      have hle : le (b :: bs) / 256 = le bs := by simp only [le]; omega
      rw [List.getD_cons_succ, ← ih, ← hle, Nat.div_div_eq_div_mul, Nat.mul_succ, Nat.pow_add']

/-- The bytes of a little-endian number in a word that has room for them. -/
theorem extractLsb'_ofNat_le (B : List Byte) {n i : Nat} (h : 8 * i + 8 ≤ n) :
    (BitVec.ofNat n (le B)).extractLsb' (8 * i) 8 = B.getD i 0 := by
  have hn : 2 ^ n = 2 ^ (8 * i) * 2 ^ (n - 8 * i) := by rw [← Nat.pow_add]; congr 1; omega
  have hdvd : 256 ∣ 2 ^ (n - 8 * i) := Nat.pow_dvd_pow 2 (show 8 ≤ n - 8 * i by omega)
  apply BitVec.eq_of_toNat_eq
  rw [BitVec.extractLsb'_toNat, BitVec.toNat_ofNat, Nat.shiftRight_eq_div_pow, hn, Nat.mod_mul_right_div_self,
    Nat.mod_mod_of_dvd _ hdvd, le_div_mod]

/-- A byte of a slice, below the slice's length (00 R7). -/
theorem getD_slice (P : List Byte) (a : Nat) {k i : Nat} (h : i < k) : (slice P a k).getD i 0 = P.getD (a + i) 0 := by
  simp [slice, h]

/-- The whole `k`-byte entries of a payload as `n`-bit little-endian numbers. -/
def uuidEntries (n k : Nat) (P : List Byte) : List (BitVec n) := (entries k P).map fun e => BitVec.ofNat n (le e)

/-- There are as many entries as whole `k`-byte parts of the payload. -/
@[simp] theorem length_uuidEntries (n k : Nat) (P : List Byte) : (uuidEntries n k P).length = P.length / k := by
  simp [uuidEntries, entries]

/-- Byte `i` of entry `j` is the payload's byte `k * j + i`. -/
theorem byte_uuidEntries {n k i j : Nat} {P : List Byte} (hn : 8 * k ≤ n) (hj : j < P.length / k) (hi : i < k) :
    ((uuidEntries n k P).getD j 0).extractLsb' (8 * i) 8 = P.getD (k * j + i) 0 := by
  have hentry : (uuidEntries n k P).getD j 0 = BitVec.ofNat n (le (slice P (k * j) k)) := by
    simp [uuidEntries, entries, hj]
  rw [hentry, extractLsb'_ofNat_le _ (by omega), getD_slice P _ hi]

/-- The entries of a payload appended one by one to a UUID list within its capacity (40 R135 to R137). -/
theorem foldl_appendCap_entries {n cap : Nat} {us : List (BitVec n)} (k : Nat) (P : List Byte) (h : us.length ≤ cap) :
    (entries k P).foldl (fun us e => appendCap cap us (BitVec.ofNat n (le e))) us =
      (us ++ uuidEntries n k P).take cap := by
  rw [← foldl_appendCap _ h, uuidEntries, List.foldl_map]

/-! ### Dispatch on the AD type (40 R133, 30 R104) -/

section Dispatch

variable {a : Adv} {t : Byte} {P : List Byte}

theorem dispatch_flags : a.dispatch 0x01 P = a.addFlags P := rfl

theorem dispatch_list16 (ht : t = 0x02 ∨ t = 0x03) : a.dispatch t P = a.addList16 P := by
  rcases ht with rfl | rfl <;> rfl

theorem dispatch_list32 (ht : t = 0x04 ∨ t = 0x05) : a.dispatch t P = a.addList32 P := by
  rcases ht with rfl | rfl <;> rfl

theorem dispatch_list128 (ht : t = 0x06 ∨ t = 0x07) : a.dispatch t P = a.addList128 P := by
  rcases ht with rfl | rfl <;> rfl

theorem dispatch_mfg : a.dispatch 0xFF P = a.addMfg P := rfl

theorem dispatch_other (ht : t = 0x00 ∨ (0x08 ≤ t ∧ t ≤ 0xFE)) : a.dispatch t P = a.addOther t P := by
  rw [Adv.dispatch, if_neg, if_neg, if_neg, if_neg, if_neg] <;> bv_omega

/-- A Flags payload of another length than 1 changes nothing (40 R134). -/
theorem addFlags_of_length_ne_one (h : P.length ≠ 1) : a.addFlags P = a := by
  match P, h with
  | [], _ => rfl
  | [_], h => exact absurd rfl h
  | _ :: _ :: _, _ => rfl

/-- While a slot is free, the structure takes it (40 R139). -/
theorem addOther_of_free (h : a.oth.length < 4) :
    a.addOther t P = { a with oth := a.oth ++ [⟨t, P.take 16⟩] } := by
  rw [Adv.addOther, appendCap, if_pos h]

/-- With every slot taken, the structure is dropped (40 R139). -/
theorem addOther_of_full (h : 4 ≤ a.oth.length) : a.addOther t P = a := by
  rw [Adv.addOther, appendCap, if_neg (by omega)]

end Dispatch

/-! ### The service-membership test (40 R146, R147) -/

/-- The test of a UUID list finds a value exactly when an entry below the count equals it (40 R146). -/
theorem any_beq_iff_below_count {n : Nat} {us : List (BitVec n)} {v : BitVec n} :
    us.any (· == v) = true ↔ ∃ i < us.length, us[i]? = some v := by
  simp [List.mem_iff_getElem, List.getElem?_eq_some_iff]

section Advertises

variable {a : Adv} {kind : BitVec 2} {V : BitVec 128}

/-- Q_KIND 0 asks for V[15:0] among the 16-bit UUIDs. -/
theorem advertises_kind0 (hk : kind = 0) : a.advertises kind V = true ↔
    ∃ i < a.u16.length, a.u16[i]? = some (V.extractLsb' 0 16) := by
  subst hk
  exact any_beq_iff_below_count

/-- Q_KIND 1 asks for V[31:0] among the 32-bit UUIDs. -/
theorem advertises_kind1 (hk : kind = 1) : a.advertises kind V = true ↔
    ∃ i < a.u32.length, a.u32[i]? = some (V.extractLsb' 0 32) := by
  subst hk
  exact any_beq_iff_below_count

/-- Q_KIND 2 asks for the whole of V among the 128-bit UUIDs. -/
theorem advertises_kind2 (hk : kind = 2) : a.advertises kind V = true ↔
    ∃ i < a.u128.length, a.u128[i]? = some V := by
  subst hk
  exact any_beq_iff_below_count

/-- Q_KIND 3 names no variant (40 R147). -/
theorem advertises_kind3 (hk : kind = 3) : a.advertises kind V = false := by
  subst hk
  rfl

end Advertises

/-! ### The obligations -/

/-- Settles O13: the completion is `completeSvcQuery`, whose test looks at the list Q_KIND names. -/
theorem svcQueryTestsMembership : Obligations.SvcQueryTestsMembership := by
  intro s S ⟨hmover, hpending⟩
  refine ⟨_, runCommand_completes hmover hpending, rfl, advertises_kind0, advertises_kind1, advertises_kind2,
    fun hk => ⟨advertises_kind3 hk, ?_⟩, fun hk => ?_⟩
  · simp [hk]
  · simpa using fun h => absurd h hk

/-- Settles O22: the entries are `uuidEntries` of the list's own width. -/
theorem uuidListsAppendUpToCapacity : Obligations.UuidListsAppendUpToCapacity := by
  intro a t P
  refine ⟨fun ht hcap => ⟨uuidEntries 16 2 P, length_uuidEntries .., fun j hj i hi => ?_, ?_⟩,
    fun ht hcap => ⟨uuidEntries 32 4 P, length_uuidEntries .., fun j hj i hi => ?_, ?_⟩,
    fun ht hcap => ⟨uuidEntries 128 16 P, length_uuidEntries .., fun j hj i hi => ?_, ?_⟩⟩
  case refine_1 | refine_3 | refine_5 => exact byte_uuidEntries le_rfl hj hi
  · rw [dispatch_list16 ht, Adv.addList16, foldl_appendCap_entries 2 P hcap]
  · rw [dispatch_list32 ht, Adv.addList32, foldl_appendCap_entries 4 P hcap]
  · rw [dispatch_list128 ht, Adv.addList128, foldl_appendCap_entries 16 P hcap]

/-- Settles O23: the bytes are appended one by one, so `foldl_appendCap` says which stay. -/
theorem manufacturerBytesAppendUpToSixteen : Obligations.ManufacturerBytesAppendUpToSixteen := by
  intro a P hcap
  rw [dispatch_mfg, Adv.addMfg, foldl_appendCap P hcap]

/-- Settles O21: a one-byte payload is stored by the definition, any other is `addFlags_of_length_ne_one`. -/
theorem flagsKeptWhenOneByte : Obligations.FlagsKeptWhenOneByte := by
  refine fun a P => ⟨?_, fun hlen => addFlags_of_length_ne_one hlen⟩
  rintro f rfl
  rfl

/-- Settles O24: the type reaches `addOther`, which looks at the number of slots taken. -/
theorem otherTypesTakeASlot : Obligations.OtherTypesTakeASlot := fun _ _ _ ht =>
  ⟨fun hfree => (dispatch_other ht).trans (addOther_of_free hfree),
    fun hfull => (dispatch_other ht).trans (addOther_of_full hfull)⟩

end Sys2Proof.Machine
end

section
/-! PROOFS. Byte-list operands of the frame decoder: slices and bytes (00 R7), the XOR fold (41 R185), the 7-bit
unpacker (41 R195) and the UTF-8 check (41 R203). -/

namespace Sys2Proof.Machine

/-! ### Slices and bytes (00 R7) -/

/-- A byte inside the list. -/
theorem getElem?_eq_some_byteAt {B : List Byte} {i : Nat} (h : i < B.length) : B[i]? = some (byteAt B i) := by
  simp [byteAt, h]

theorem byteAt_congr {B B' : List Byte} {i : Nat} (h : B'[i]? = B[i]?) : byteAt B' i = byteAt B i := by
  rw [byteAt, byteAt, List.getD, List.getD, h]

@[simp] theorem length_slice (B : List Byte) (a n : Nat) : (slice B a n).length = min n (B.length - a) := by
  simp [slice]

theorem getElem?_slice (B : List Byte) (a n i : Nat) : (slice B a n)[i]? = if i < n then B[a + i]? else none := by
  simp [slice, List.getElem?_take]

/-- A slice is determined by the bytes from its start up to its end. -/
theorem slice_congr {B B' : List Byte} {a n : Nat} (h : ∀ i, a ≤ i → i < a + n → B'[i]? = B[i]?) :
    slice B' a n = slice B a n := by
  apply List.ext_getElem?
  intro i
  rw [getElem?_slice, getElem?_slice]
  split
  · exact h (a + i) (by omega) (by omega)
  · rfl

/-- A slice inside the list is a given array exactly when it is so byte by byte. -/
theorem slice_eq_toList_iff {B : List Byte} {a n : Nat} {v : Vector Byte n} (h : a + n ≤ B.length) :
    slice B a n = v.toList ↔ ∀ j : Fin n, byteAt B (a + j) = v[j] := by
  have hget (j : Fin n) : (slice B a n)[j]? = some (byteAt B (a + j)) := by
    rw [Fin.getElem?_fin, getElem?_slice, if_pos j.isLt, getElem?_eq_some_byteAt (by omega)]
  constructor
  · intro heq j
    have hj := hget j
    rw [heq] at hj
    simpa using hj.symm
  · intro hall
    apply List.ext_getElem?
    intro i
    by_cases hi : i < n
    · have hj := hget ⟨i, hi⟩
      rw [hall] at hj
      simpa [hi] using hj
    · rw [getElem?_slice, if_neg hi, List.getElem?_eq_none (by simpa using hi)]

/-! ### The XOR fold (41 R185) -/

/-- XOR may be folded from either end. -/
theorem xorFold_eq_foldr (P : List Byte) : xorFold P = P.foldr (· ^^^ ·) 0 :=
  List.foldl_eq_foldr

/-! ### The 7-bit unpacker (41 R195) -/

/-- Bit 7 of an output byte is its mask bit. -/
theorem getLsbD_restoreBit (mask : Byte) (j : Nat) (d : Byte) : (restoreBit mask j d).getLsbD 7 = mask.getLsbD j := by
  rw [restoreBit]
  split <;> simp [*]

/-- The low 7 bits of an output byte are its data byte's. -/
theorem extractLsb'_restoreBit (mask : Byte) (j : Nat) (d : Byte) :
    (restoreBit mask j d).extractLsb' 0 7 = d.extractLsb' 0 7 := by
  rw [restoreBit]
  split <;> (revert d; decide)

/-- The data bytes still in the group are restored with their own mask bits, and the unpacker goes on behind them. -/
theorem unpackFrom_append {mask : Byte} {j : Nat} {D : List Byte} (rest : List Byte) (h : j + D.length ≤ 7) :
    unpackFrom mask j (D ++ rest) =
      D.mapIdx (fun i d => restoreBit mask (j + i) d) ++ unpackFrom mask (j + D.length) rest := by
  induction D generalizing j with
  | nil => simp
  | cons d ds ih =>
    rw [List.length_cons] at h
    rw [List.cons_append, unpackFrom, if_pos (by omega), ih (by omega), List.mapIdx_cons, List.length_cons]
    simp only [Nat.add_zero, Nat.add_assoc, Nat.add_comm 1, List.cons_append]

/-- After 7 data bytes the next byte is a mask, whatever the mask before was. -/
theorem unpackFrom_seven (mask : Byte) (P : List Byte) : unpackFrom mask 7 P = unpack7 P := by
  cases P <;> rfl

/-- The first byte is a mask. -/
theorem unpack7_cons (m : Byte) (P : List Byte) : unpack7 (m :: P) = unpackFrom m 0 P := rfl

/-- One group of at most 7 data bytes. -/
theorem unpack7_group {m : Byte} {D : List Byte} (h : D.length ≤ 7) : unpack7 (m :: D) = D.mapIdx (restoreBit m) := by
  have hgroup := unpackFrom_append (mask := m) (j := 0) [] (D := D) (by omega)
  simpa [unpack7_cons, unpackFrom] using hgroup

/-- A full group stands before the unpacking of the rest. -/
theorem unpack7_fullGroup {m : Byte} {D : List Byte} (rest : List Byte) (h : D.length = 7) :
    unpack7 (m :: D ++ rest) = D.mapIdx (restoreBit m) ++ unpack7 rest := by
  have hgroup := unpackFrom_append (mask := m) (j := 0) rest (D := D) (by omega)
  simpa [h, unpack7_cons, unpackFrom_seven] using hgroup

/-- Settles O36: a group is `unpack7_group`, a full one before more bytes `unpack7_fullGroup`. -/
theorem unpackerWorksByGroups : Obligations.UnpackerWorksByGroups := by
  refine ⟨rfl, fun m D hlen => ⟨?_, fun j hj d hd => ⟨restoreBit m j d, ?_, ?_, ?_⟩⟩, fun m D rest hlen => ?_⟩
  · rw [unpack7_group hlen, List.length_mapIdx]
  · rw [unpack7_group hlen, List.getElem?_mapIdx, hd, Option.map_some]
  · exact getLsbD_restoreBit m j d
  · exact extractLsb'_restoreBit m j d
  · rw [unpack7_fullGroup rest hlen, unpack7_group hlen.le]

/-! ### The UTF-8 check (41 R203) -/

/-- Following bytes that lie one by one in the ranges a first byte asks for (41 R203). -/
abbrev InRanges : List (Byte × Byte) → List Byte → Prop := List.Forall₂ fun r b => r.1 ≤ b ∧ b ≤ r.2

/-- A first byte and following bytes in its ranges make a row of the table. -/
theorem utf8Row_of_tail {a : Byte} {need : List (Byte × Byte)} {t : List Byte} (htail : utf8Tail a = some need)
    (ht : InRanges need t) : utf8Row (a :: t) := by
  unfold utf8Tail at htail
  split_ifs at htail with h1 h2 h3 h4 h5 h6 h7 h8 h9 <;> cases htail
  case pos =>
    obtain ⟨⟩ := ht
    exact h1
  · obtain _ | ⟨hb, ⟨⟩⟩ := ht
    exact ⟨h2, hb⟩
  · obtain _ | ⟨hb, _ | ⟨hc, ⟨⟩⟩⟩ := ht
    exact ⟨.inl ⟨h3, hb⟩, hc⟩
  · obtain _ | ⟨hb, _ | ⟨hc, ⟨⟩⟩⟩ := ht
    exact ⟨.inr (.inl ⟨h4.1, h4.2, hb⟩), hc⟩
  · obtain _ | ⟨hb, _ | ⟨hc, ⟨⟩⟩⟩ := ht
    exact ⟨.inr (.inr (.inl ⟨h5, hb⟩)), hc⟩
  · obtain _ | ⟨hb, _ | ⟨hc, ⟨⟩⟩⟩ := ht
    exact ⟨.inr (.inr (.inr ⟨h6.1, h6.2, hb⟩)), hc⟩
  · obtain _ | ⟨hb, _ | ⟨hc, _ | ⟨hd, ⟨⟩⟩⟩⟩ := ht
    exact ⟨.inl ⟨h7, hb⟩, hc, hd⟩
  · obtain _ | ⟨hb, _ | ⟨hc, _ | ⟨hd, ⟨⟩⟩⟩⟩ := ht
    exact ⟨.inr (.inl ⟨h8.1, h8.2, hb⟩), hc, hd⟩
  · obtain _ | ⟨hb, _ | ⟨hc, _ | ⟨hd, ⟨⟩⟩⟩⟩ := ht
    exact ⟨.inr (.inr ⟨h9, hb⟩), hc, hd⟩

/-! The ranges asked for by the first bytes that are given as an interval. -/

theorem utf8Tail_one {a : Byte} (h : a ≤ 0x7F) : utf8Tail a = some [] := if_pos h

theorem utf8Tail_two : ∀ {a : Byte}, 0xC2 ≤ a ∧ a ≤ 0xDF → utf8Tail a = some [(0x80, 0xBF)] := by decide

theorem utf8Tail_three : ∀ {a : Byte}, (0xE1 ≤ a ∧ a ≤ 0xEC) ∨ (0xEE ≤ a ∧ a ≤ 0xEF) →
    utf8Tail a = some [(0x80, 0xBF), (0x80, 0xBF)] := by decide

theorem utf8Tail_four : ∀ {a : Byte}, 0xF1 ≤ a ∧ a ≤ 0xF3 →
    utf8Tail a = some [(0x80, 0xBF), (0x80, 0xBF), (0x80, 0xBF)] := by decide

/-- A row of the table is a first byte and following bytes in its ranges. -/
theorem exists_tail_of_utf8Row {q : List Byte} (hq : utf8Row q) :
    ∃ a need t, q = a :: t ∧ utf8Tail a = some need ∧ InRanges need t := by
  match q, hq with
  | [a], ha => exact ⟨a, [], [], rfl, utf8Tail_one ha, .nil⟩
  | [a, b], ⟨ha, hb⟩ => exact ⟨a, _, [b], rfl, utf8Tail_two ha, .cons hb .nil⟩
  | [a, b, c], ⟨hab, hc⟩ =>
    rcases hab with ⟨rfl, hb⟩ | ⟨h, h', hb⟩ | ⟨rfl, hb⟩ | ⟨h, h', hb⟩
    · exact ⟨_, _, [b, c], rfl, rfl, .cons hb (.cons hc .nil)⟩
    · exact ⟨a, _, [b, c], rfl, utf8Tail_three (.inl ⟨h, h'⟩), .cons hb (.cons hc .nil)⟩
    · exact ⟨_, _, [b, c], rfl, rfl, .cons hb (.cons hc .nil)⟩
    · exact ⟨a, _, [b, c], rfl, utf8Tail_three (.inr ⟨h, h'⟩), .cons hb (.cons hc .nil)⟩
  | [a, b, c, d], ⟨hab, hc, hd⟩ =>
    rcases hab with ⟨rfl, hb⟩ | ⟨h, h', hb⟩ | ⟨rfl, hb⟩
    · exact ⟨_, _, [b, c, d], rfl, rfl, .cons hb (.cons hc (.cons hd .nil))⟩
    · exact ⟨a, _, [b, c, d], rfl, utf8Tail_four ⟨h, h'⟩, .cons hb (.cons hc (.cons hd .nil))⟩
    · exact ⟨_, _, [b, c, d], rfl, rfl, .cons hb (.cons hc (.cons hd .nil))⟩

/-- Following bytes in the ranges asked for complete the sequence, and the check begins afresh behind them. -/
theorem utf8From_append {need : List (Byte × Byte)} {t : List Byte} (N : List Byte) (ht : InRanges need t) :
    utf8From need (t ++ N) = utf8Valid N := by
  induction ht with
  | nil => rfl
  | cons hb _ ih => simpa [utf8From, hb.1, hb.2] using ih

/-- A row of the table in front changes nothing. -/
theorem utf8Valid_append_of_utf8Row {q : List Byte} (N : List Byte) (hq : utf8Row q) :
    utf8Valid (q ++ N) = utf8Valid N := by
  obtain ⟨a, need, t, rfl, htail, ht⟩ := exists_tail_of_utf8Row hq
  rw [utf8Valid, List.cons_append, utf8From, htail]
  exact utf8From_append N ht

/-- What the check accepts completes the sequence begun, and rows of the table follow. -/
theorem rows_of_utf8From {need : List (Byte × Byte)} {N : List Byte} (h : utf8From need N = true) :
    ∃ (t : List Byte) (qs : List (List Byte)), N = t ++ qs.flatten ∧ InRanges need t ∧ ∀ q ∈ qs, utf8Row q := by
  induction need, N using utf8From.induct with
  | case1 => exact ⟨[], [], rfl, .nil, List.forall_mem_nil _⟩
  | case2 => cases h
  | case3 b bs need htail ih =>
    rw [utf8From, htail] at h
    obtain ⟨t, qs, rfl, ht, hqs⟩ := ih h
    exact ⟨[], (b :: t) :: qs, rfl, .nil, List.forall_mem_cons.2 ⟨utf8Row_of_tail htail ht, hqs⟩⟩
  | case4 b bs htail =>
    rw [utf8From, htail] at h
    cases h
  | case5 lo hi need b bs ih =>
    rw [utf8From, Bool.and_eq_true, decide_eq_true_eq] at h
    obtain ⟨hb, hbs⟩ := h
    obtain ⟨t, qs, rfl, ht, hqs⟩ := ih hbs
    exact ⟨b :: t, qs, rfl, .cons hb ht, hqs⟩

/-- The check accepts exactly the concatenations of rows of the table. -/
theorem utf8Valid_iff {N : List Byte} :
    utf8Valid N = true ↔ ∃ qs : List (List Byte), N = qs.flatten ∧ ∀ q ∈ qs, utf8Row q := by
  constructor
  · intro h
    obtain ⟨_, qs, rfl, ⟨⟩, hqs⟩ := rows_of_utf8From h
    exact ⟨qs, rfl, hqs⟩
  · rintro ⟨qs, rfl, hqs⟩
    induction qs with
    | nil => rfl
    | cons q qs ih =>
      obtain ⟨hq, hqs⟩ := List.forall_mem_cons.1 hqs
      rw [List.flatten_cons, utf8Valid_append_of_utf8Row _ hq, ih hqs]

end Sys2Proof.Machine
end

section
/-! PROOFS. The MIDI-SysEx frame parser (41_frame_decoder.md): what BLK_DECODE leaves in the DEC group. -/

namespace Sys2Proof.Machine

/-! ### The registers of the DEC group (10 R38 to R43) -/

/-- DEC_RES as its code alone determines it (10 R39). -/
def DecCode.resWord (c : DecCode) : Word := 0#23 ++ BitVec.ofBool (c == .okAmpname) ++ 0#4 ++ c.value

theorem resWord_eq (d : Dec) : d.resWord = d.code.resWord := rfl

/-- A result code and the number DEC_RES shows for it. -/
theorem code_and_resWord {d : Dec} {c : DecCode} (h : d.code = c) : d.code = c ∧ d.resWord = c.resWord :=
  ⟨h, by rw [resWord_eq, h]⟩

/-- Of all codes only REJ_SHORT is shown as DEC_RES 1 (30 R110). -/
theorem DecCode.eq_rejShort_of_resWord {c : DecCode} (h : c.resWord = 0x00000001) : c = .rejShort := by
  revert h
  cases c <;> decide

/-- Without OK_AMPNAME there is no message (10 R39). -/
theorem msg_eq_false {d : Dec} (h : d.code ≠ .okAmpname) : d.msg = false := beq_eq_false_iff_ne.2 h

theorem ampName_eq_none {d : Dec} (h : d.code ≠ .okAmpname) : d.ampName = none := by
  rw [Dec.ampName, msg_eq_false h, if_neg Bool.false_ne_true]

theorem ampName_eq_some {d : Dec} (h : d.code = .okAmpname) :
    d.ampName = some (d.seq, slice d.unp d.nstart.toNat d.nlen.toNat) :=
  if_pos (beq_iff_eq.2 h)

/-- DEC_NAME bit by bit (10 R43). -/
theorem getLsbD_nameWord (d : Dec) (i : Nat) :
    d.nameWord.getLsbD i = if i < 8 then d.nlen.getLsbD i else d.nstart.getLsbD (i - 8) := by
  rw [Dec.nameWord, BitVec.getLsbD_append, BitVec.getLsbD_append, BitVec.getLsbD_zero]
  split
  · rfl
  · split
    · rfl
    · rw [BitVec.getLsbD_of_ge _ _ (by omega)]

theorem nameWord_eq_zero {d : Dec} (hnlen : d.nlen = 0) (hnstart : d.nstart = 0) : d.nameWord = 0 := by
  rw [Dec.nameWord, hnlen, hnstart]
  decide

/-- NLEN stands in bits 7:0. -/
theorem nameWord_nlen (d : Dec) : d.nameWord.extractLsb' 0 8 = d.nlen := by
  ext i hi
  rw [BitVec.getElem_extractLsb', getLsbD_nameWord, if_pos (by omega), Nat.zero_add, BitVec.getLsbD_eq_getElem hi]

/-- NSTART stands in bits 9:8. -/
theorem nameWord_nstart (d : Dec) : d.nameWord.extractLsb' 8 2 = d.nstart := by
  ext i hi
  rw [BitVec.getElem_extractLsb', getLsbD_nameWord, if_neg (by omega), Nat.add_sub_cancel_left,
    BitVec.getLsbD_eq_getElem hi]

/-- The other bits are 0. -/
theorem nameWord_high (d : Dec) : d.nameWord.extractLsb' 10 22 = 0 := by
  ext i hi
  rw [BitVec.getElem_extractLsb', getLsbD_nameWord, if_neg (by omega), BitVec.getLsbD_of_ge _ _ (by omega)]
  simp

section Frame

variable {p : Params} {B : List Byte} {ctrl : BitVec 3}

/-! ### The steps of the decode (41 R171, R172, R175, R200) -/

theorem decodeBlock_of_short (h : B.length < 23) : decodeBlock p B ctrl = { Dec.cleared with code := .rejShort } :=
  if_pos h

theorem decodeBlock_of_reject {code : DecCode} (hlen : 23 ≤ B.length) (h : frameReject p B ctrl = some code) :
    decodeBlock p B ctrl = captured B code [] 0 0 := by
  rw [decodeBlock, if_neg (by simpa [minBlock] using hlen), h]

theorem decodeBlock_of_pass (hlen : 23 ≤ B.length) (h : frameReject p B ctrl = none) :
    decodeBlock p B ctrl = decodeFrame B ctrl := by
  rw [decodeBlock, if_neg (by simpa [minBlock] using hlen), h]

theorem decodeFrame_of_ok (h : messageCode B (unpack7 (packedPayload B)) ctrl = .okAmpname) :
    decodeFrame B ctrl = captured B .okAmpname (unpack7 (packedPayload B)) (byteAt (unpack7 (packedPayload B)) 0)
      (BitVec.ofNat 2 (nameOffset ctrl)) :=
  if_pos h

theorem decodeFrame_of_not_ok (h : messageCode B (unpack7 (packedPayload B)) ctrl ≠ .okAmpname) :
    decodeFrame B ctrl =
      captured B (messageCode B (unpack7 (packedPayload B)) ctrl) (unpack7 (packedPayload B)) 0 0 :=
  if_neg h

/-- A frame that passes its checks has the code of its message. -/
theorem decodeFrame_code : (decodeFrame B ctrl).code = messageCode B (unpack7 (packedPayload B)) ctrl := by
  by_cases h : messageCode B (unpack7 (packedPayload B)) ctrl = .okAmpname
  · rw [decodeFrame_of_ok h, h, captured]
  · rw [decodeFrame_of_not_ok h, captured]

/-- A frame that passes its checks is unpacked whatever its message (41 R200). -/
theorem decodeFrame_unp : (decodeFrame B ctrl).unp = unpack7 (packedPayload B) := by
  by_cases h : messageCode B (unpack7 (packedPayload B)) ctrl = .okAmpname
  · rw [decodeFrame_of_ok h, captured]
  · rw [decodeFrame_of_not_ok h, captured]

theorem decodeBlock_code_of_reject {code : DecCode} (hlen : 23 ≤ B.length) (h : frameReject p B ctrl = some code) :
    (decodeBlock p B ctrl).code = code := by
  rw [decodeBlock_of_reject hlen h, captured]

theorem decodeBlock_code_of_pass (hlen : 23 ≤ B.length) (h : frameReject p B ctrl = none) :
    (decodeBlock p B ctrl).code = messageCode B (unpack7 (packedPayload B)) ctrl := by
  rw [decodeBlock_of_pass hlen h, decodeFrame_code]

/-- A long enough block is captured whatever the result (41 R176). -/
theorem decodeBlock_eq_captured (hlen : 23 ≤ B.length) :
    ∃ code U nlen nstart, decodeBlock p B ctrl = captured B code U nlen nstart := by
  cases hreject : frameReject p B ctrl with
  | some code => exact ⟨_, _, _, _, decodeBlock_of_reject hlen hreject⟩
  | none =>
    rw [decodeBlock_of_pass hlen hreject]
    by_cases h : messageCode B (unpack7 (packedPayload B)) ctrl = .okAmpname
    · exact ⟨_, _, _, _, decodeFrame_of_ok h⟩
    · exact ⟨_, _, _, _, decodeFrame_of_not_ok h⟩

/-! ### The frame checks (41 R180 to R186) -/

/-- The magic check, byte by byte. -/
theorem magic_iff (hlen : 23 ≤ B.length) :
    slice B 0 4 = p.magic.toList ↔ ∀ j : Fin 4, byteAt B j = p.magic[j] := by
  simpa using slice_eq_toList_iff (a := 0) (v := p.magic) (by omega)

/-- The direction check, byte by byte. -/
theorem dirFrom_iff (hlen : 23 ≤ B.length) :
    slice B 4 2 = p.dirFrom.toList ↔ ∀ j : Fin 2, byteAt B (4 + j) = p.dirFrom[j] :=
  slice_eq_toList_iff (by omega)

/-- A check in front of others rejects nothing exactly when it does not fire and the others reject nothing. -/
theorem ite_some_eq_none_iff {c : Prop} [Decidable c] {code : DecCode} {rest : Option DecCode} :
    (if c then some code else rest) = none ↔ ¬ c ∧ rest = none := by
  split <;> simp [*]

/-- The frame passes exactly when no check rejects it. -/
theorem frameReject_eq_none_iff (hlen : 23 ≤ B.length) : frameReject p B ctrl = none ↔ framePasses p B ctrl := by
  rw [framePasses, ← magic_iff hlen, ← dirFrom_iff hlen]
  simp only [frameReject, ite_some_eq_none_iff, ne_eq, not_not, not_and, and_true]
  rfl

/-- The codes a frame check gives. -/
theorem frameReject_cases {code : DecCode} (h : frameReject p B ctrl = some code) :
    code ∈ [.rejMagic, .rejDir, .rejStart, .rejSysex, .rejTrailer, .rejCsum] := by
  unfold frameReject at h
  split_ifs at h <;> cases h <;> decide

/-! ### The message dispatch and the name (41 R201 to R204) -/

section Name

variable {U : List Byte} {o : Nat}

/-- No length byte, or a name that ends behind the unpacked bytes (41 R202). -/
theorem nameCode_of_out (h : U = [] ∨ U.length < o + (U.getD 0 0).toNat) : nameCode U o = .rejNameBounds := by
  cases U with
  | nil => rfl
  | cons n U => exact if_pos (by simpa using h)

/-- A name within the unpacked bytes is judged by the UTF-8 check (41 R203, R204). -/
theorem nameCode_of_fits (hU : U ≠ []) (h : o + (U.getD 0 0).toNat ≤ U.length) :
    nameCode U o = if utf8Valid (slice U o (U.getD 0 0).toNat) then .okAmpname else .rejNameUtf8 := by
  cases U with
  | nil => exact absurd rfl hU
  | cons n U => exact if_neg (by simpa using h)

/-- The codes of the amp-name response. -/
theorem nameCode_cases (U : List Byte) (o : Nat) : nameCode U o ∈ [.rejNameBounds, .rejNameUtf8, .okAmpname] := by
  unfold nameCode
  split
  · decide
  · split_ifs <;> decide

theorem messageCode_of_ampName (hcmd : byteAt B 20 = 0x03) (hsub : byteAt B 21 = 0x11) :
    messageCode B U ctrl = nameCode U (nameOffset ctrl) :=
  if_pos ⟨hcmd, hsub⟩

theorem messageCode_of_other (h : ¬ (byteAt B 20 = 0x03 ∧ byteAt B 21 = 0x11)) :
    messageCode B U ctrl = .nomsgUnknown :=
  if_neg h

/-- The codes of a frame that passes its checks. -/
theorem messageCode_cases (B U : List Byte) (ctrl : BitVec 3) :
    messageCode B U ctrl ∈ [.nomsgUnknown, .rejNameBounds, .rejNameUtf8, .okAmpname] := by
  by_cases h : byteAt B 20 = 0x03 ∧ byteAt B 21 = 0x11
  · rw [messageCode_of_ampName h.1 h.2]
    exact List.mem_cons_of_mem _ (nameCode_cases ..)
  · rw [messageCode_of_other h]
    exact List.mem_cons_self

end Name

end Frame

/-! ### Blocks that differ in the size byte and the reserved bytes only (41 R190) -/

section Reserved

variable {p : Params} {B B' U : List Byte} {ctrl : BitVec 3}

variable (hagree : ∀ i, i < 6 ∨ 16 ≤ i → B'[i]? = B[i]?)
include hagree

theorem messageCode_congr : messageCode B' U ctrl = messageCode B U ctrl := by
  rw [messageCode, messageCode, byteAt_congr (hagree 20 (by decide)), byteAt_congr (hagree 21 (by decide))]

variable (hlen' : B'.length = B.length)
include hlen'

theorem packedPayload_congr : packedPayload B' = packedPayload B := by
  rw [packedPayload, packedPayload, hlen']
  exact slice_congr fun i hi _ => hagree i (by omega)

theorem captured_congr {code : DecCode} {nlen : Byte} {nstart : BitVec 2} :
    captured B' code U nlen nstart = { captured B code U nlen nstart with size := byteAt B' 6 } := by
  rw [captured, captured, packedPayload_congr hagree hlen', byteAt_congr (hagree 18 (by decide)),
    byteAt_congr (hagree 19 (by decide)), byteAt_congr (hagree 20 (by decide)), byteAt_congr (hagree 21 (by decide))]

theorem frameReject_congr (hlen : 23 ≤ B.length) : frameReject p B' ctrl = frameReject p B ctrl := by
  have hbyte {i : Nat} (hi : 16 ≤ i) : byteAt B' i = byteAt B i := byteAt_congr (hagree i (.inr hi))
  have hslice {a n : Nat} (h : a + n ≤ 6) : slice B' a n = slice B a n :=
    slice_congr fun i _ hi => hagree i (by omega)
  rw [frameReject, frameReject, packedPayload_congr hagree hlen', hlen', hslice (by decide), hslice (by decide),
    hbyte (i := 16) (by decide), hbyte (i := 17) (by decide), hbyte (i := 19) (by decide),
    hbyte (i := B.length - 1) (by omega)]

end Reserved

/-! ### The obligations -/

/-- Settles O27: the length check stands first, and no later check gives its code. -/
theorem shortBlocksRejected : Obligations.ShortBlocksRejected := by
  intro p B ctrl
  refine ⟨fun hshort => ?_, fun hlen => ?_⟩
  · rw [decodeBlock_of_short hshort]
    exact ⟨rfl, rfl⟩
  · have hcode : (decodeBlock p B ctrl).code ≠ .rejShort := by
      cases hreject : frameReject p B ctrl with
      | some code =>
        rw [decodeBlock_code_of_reject hlen hreject]
        exact ne_of_mem_of_not_mem (frameReject_cases hreject) (by decide)
      | none =>
        rw [decodeBlock_code_of_pass hlen hreject]
        exact ne_of_mem_of_not_mem (messageCode_cases ..) (by decide)
    exact ⟨hcode, mt DecCode.eq_rejShort_of_resWord hcode⟩

/-- Settles O28: every result of a long enough block is `captured`. -/
theorem headerCapturedWhateverTheResult : Obligations.HeaderCapturedWhateverTheResult := by
  intro p B ctrl hlen d
  obtain ⟨code, U, nlen, nstart, hd⟩ := decodeBlock_eq_captured (p := p) (ctrl := ctrl) hlen
  have hbyte {i : Nat} (hi : i < 23) : B[i]? = some (byteAt B i) := getElem?_eq_some_byteAt (by omega)
  rw [show d = captured B code U nlen nstart from hd]
  exact ⟨hbyte (by decide), hbyte (by decide), hbyte (by decide), hbyte (by decide), hbyte (by decide),
    xorFold_eq_foldr _, rfl, rfl⟩

/-- Settles O29: with the array comparisons read byte by byte, each clause is one branch of `frameReject`. -/
theorem firstFailingFrameCheckDecides : Obligations.FirstFailingFrameCheckDecides := by
  intro p B ctrl hlen code res magicOk dirOk trailerOk csumOk
  have hmagic : slice B 0 4 = p.magic.toList ↔ magicOk := magic_iff hlen
  have hdir : slice B 4 2 = p.dirFrom.toList ↔ dirOk := dirFrom_iff hlen
  have htrailer : (trlEn ctrl = true ∧ byteAt B (B.length - 1) ≠ 0xF7) ↔ ¬ trailerOk := Classical.not_imp.symm
  have hcsum : (csumEn ctrl = true ∧ xorFold (packedPayload B) ≠ byteAt B 19) ↔ ¬ csumOk := Classical.not_imp.symm
  have hdecides {c : DecCode} (h : frameReject p B ctrl = some c) : code = c ∧ res = c.resWord :=
    code_and_resWord (decodeBlock_code_of_reject hlen h)
  simp only [frameReject, ne_eq, hmagic, hdir, htrailer, hcsum, ite_not] at hdecides
  refine ⟨fun h => ?magic, fun h₁ h => ?dir, fun h₁ h₂ h => ?start, fun h₁ h₂ h₃ h => ?sysex,
    fun h₁ h₂ h₃ h₄ h => ?trailer, fun h₁ h₂ h₃ h₄ h₅ h => ?csum, fun hpass => ?pass⟩
  case magic => exact hdecides (if_neg h)
  case dir => exact hdecides (by rw [if_pos h₁, if_neg h])
  case start => exact hdecides (by rw [if_pos h₁, if_pos h₂, if_neg h])
  case sysex => exact hdecides (by rw [if_pos h₁, if_pos h₂, if_pos h₃, if_neg h])
  case trailer => exact hdecides (by rw [if_pos h₁, if_pos h₂, if_pos h₃, if_pos h₄, if_neg h])
  case csum => exact hdecides (by rw [if_pos h₁, if_pos h₂, if_pos h₃, if_pos h₄, if_pos h₅, if_neg h])
  case pass =>
    have hcode : code = messageCode B (unpack7 (packedPayload B)) ctrl :=
      decodeBlock_code_of_pass hlen ((frameReject_eq_none_iff hlen).2 hpass)
    simpa [hcode] using messageCode_cases B (unpack7 (packedPayload B)) ctrl

/-- Settles O31: the frame passes, so the code is the message's, and `captured` says what is left. -/
theorem ampNameDecodedWithinBounds : Obligations.AmpNameDecodedWithinBounds := by
  intro p B ctrl hlen hpass d U o n
  have hd : d = decodeFrame B ctrl := decodeBlock_of_pass hlen ((frameReject_eq_none_iff hlen).2 hpass)
  have hcode : d.code = messageCode B U ctrl := by rw [hd, decodeFrame_code]; rfl
  have hfits (hcmd : byteAt B 20 = 0x03) (hsub : byteAt B 21 = 0x11) (hU : U ≠ []) (hfit : o + n ≤ U.length) :
      messageCode B U ctrl = if utf8Valid (slice U o n) then .okAmpname else .rejNameUtf8 :=
    (messageCode_of_ampName hcmd hsub).trans (nameCode_of_fits hU hfit)
  refine ⟨hd ▸ decodeFrame_unp, fun hother => ?other, fun hcmd hsub hout => ?bounds,
    fun hcmd hsub hU hfit hutf8 => ?utf8, fun hcmd hsub hU hfit hutf8 => ?ok, fun hne => ?noName⟩
  case other => exact code_and_resWord (hcode.trans (messageCode_of_other hother))
  case bounds => exact code_and_resWord (hcode.trans ((messageCode_of_ampName hcmd hsub).trans (nameCode_of_out hout)))
  case utf8 => exact code_and_resWord (by rw [hcode, hfits hcmd hsub hU hfit, hutf8, if_neg Bool.false_ne_true])
  case ok =>
    have hok : messageCode B U ctrl = .okAmpname := by rw [hfits hcmd hsub hU hfit, if_pos hutf8]
    have hname : d = captured B .okAmpname U (byteAt U 0) (BitVec.ofNat 2 o) := hd.trans (decodeFrame_of_ok hok)
    have hnlen : d.nlen.toNat = n := by rw [hname]; rfl
    have hnstart : d.nstart.toNat = o := by rw [hname]; simp only [captured, o]; split <;> rfl
    obtain ⟨hcodeOk, hres⟩ := code_and_resWord (hcode.trans hok)
    refine ⟨hcodeOk, hres, hnlen, hnstart, by rw [nameWord_nlen, hnlen], by rw [nameWord_nstart, hnstart],
      nameWord_high d, ?_⟩
    rw [ampName_eq_some hcodeOk, hnlen, hnstart, hname]
    rfl
  case noName =>
    have hzero : d = captured B (messageCode B U ctrl) U 0 0 := hd.trans (decodeFrame_of_not_ok (hcode ▸ hne))
    exact ⟨nameWord_eq_zero (by rw [hzero, captured]) (by rw [hzero, captured]), msg_eq_false hne, ampName_eq_none hne⟩

/-- Settles O32: the table is `utf8Valid_iff`, and a name that fits is judged by `nameCode_of_fits`. -/
theorem utf8AcceptsExactlyTheTable : Obligations.Utf8AcceptsExactlyTheTable := by
  refine ⟨fun N => utf8Valid_iff, fun n U o hfit => ?_⟩
  rw [nameCode_of_fits (List.cons_ne_nil n U) hfit, List.getD_cons_zero]
  cases utf8Valid (slice (n :: U) o n.toNat) <;> decide

/-- Settles O34: the checks, the payload and the message read only bytes the blocks share; byte 6 is only captured. -/
theorem sizeAndReservedBytesNotChecked : Obligations.SizeAndReservedBytesNotChecked := by
  intro p B B' ctrl hlen' hlen hagree
  have hreject : frameReject p B' ctrl = frameReject p B ctrl := frameReject_congr hagree hlen' hlen
  have hpayload : packedPayload B' = packedPayload B := packedPayload_congr hagree hlen'
  have hmessage (U : List Byte) : messageCode B' U ctrl = messageCode B U ctrl := messageCode_congr hagree
  have hcaptured (code : DecCode) (U : List Byte) (nlen : Byte) (nstart : BitVec 2) :
      captured B' code U nlen nstart = { captured B code U nlen nstart with size := byteAt B' 6 } :=
    captured_congr hagree hlen'
  cases hcase : frameReject p B ctrl with
  | some code =>
    rw [decodeBlock_of_reject hlen hcase, decodeBlock_of_reject (hlen'.symm ▸ hlen) (hreject.trans hcase), hcaptured]
  | none =>
    rw [decodeBlock_of_pass hlen hcase, decodeBlock_of_pass (hlen'.symm ▸ hlen) (hreject.trans hcase)]
    by_cases hok : messageCode B (unpack7 (packedPayload B)) ctrl = .okAmpname
    · rw [decodeFrame_of_ok hok, decodeFrame_of_ok (by rw [hmessage, hpayload, hok]), hcaptured, hpayload]
    · rw [decodeFrame_of_not_ok hok, decodeFrame_of_not_ok (by rwa [hmessage, hpayload]), hcaptured, hmessage, hpayload]

end Sys2Proof.Machine
end

section
/-! PROOFS. The stand-alone primitives (42_primitives.md): UNPACK7 (R220) and XSUM (R225), each from its command word to
the registers it leaves. -/

namespace Sys2Proof.Machine

/-! ### The commands that are accepted (43 R240, 70 R297) -/

/-- A word whose OP is an acceptable opcode presents that opcode's command (30 R91). -/
theorem decode_of_opField {v : Word} {op : Cmd} (h : opField v = op.opcode) : decode v = op.instr := by
  rw [decode, h]
  cases op <;> rfl

/-- Some byte below IN_LEN was never written since reset (70 R297). -/
theorem inputWritten_eq_false {s : State} :
    s.inputWritten = false ↔ ∃ j < s.inLen.toNat, Memory.get s.inBuf j = none := by
  simp [State.inputWritten, State.written]

/-- On an idle block a command that reads IN_BUF faults on an unwritten input byte (70 R297). -/
theorem exec_instr_unwritten {op : Cmd} {s : State} (hop : op.readsInput = true) (hidle : s.pending = none)
    (hunwritten : ∃ j < s.inLen.toNat, Memory.get s.inBuf j = none) :
    exec op.instr s = .fault .unwrittenInput := by
  rw [exec_instr, runCommand_issues (State.completing_idle hidle), issue, State.busy_eq_false.2 hidle, hop,
    inputWritten_eq_false.2 hunwritten]
  rfl

/-! ### The length law of the unpacker (41 R196) -/

/-- Every byte but the masks gives one output byte, and after `j` data bytes of a group a mask stands behind every 7
that follow. -/
theorem length_unpackFrom_add_masks (mask : Byte) {j : Nat} (P : List Byte) (hj : j ≤ 7) :
    (unpackFrom mask j P).length + (P.length + j) / 8 = P.length := by
  induction P generalizing mask j with
  | nil => simp only [unpackFrom, List.length_nil]; omega
  | cons d ds ih =>
    rw [unpackFrom]
    split
    next hdata =>
      have hrest := ih mask (j := j + 1) (by omega)
      simp only [List.length_cons]
      omega
    next hmask =>
      have hrest := ih d (j := 0) (by omega)
      simp only [List.length_cons]
      omega

/-- The length law (41 R196). -/
theorem length_unpack7 (P : List Byte) : (unpack7 P).length = 7 * (P.length / 8) + (P.length % 8 - 1) := by
  have hmasks := length_unpackFrom_add_masks 0 P (le_refl 7)
  rw [unpack7]
  omega

/-- The longest input of UNPACK7 stays within UNP_BUF (41 R196). -/
theorem length_unpack7_le {P : List Byte} (h : P.length ≤ 255) : (unpack7 P).length ≤ 223 := by
  rw [length_unpack7]
  omega

/-! ### The registers of the DEC group (10 R38 to R43) -/

/-- DEC_RES, DEC_HDR, DEC_CSUM and DEC_NAME of the cleared group, NO_DECODE and zeros (10 R48). -/
theorem words_cleared : Dec.cleared.resWord = 0x0000000F ∧ Dec.cleared.hdrWord = 0 ∧ Dec.cleared.csumWord = 0 ∧
    Dec.cleared.nameWord = 0 := by decide

/-- DEC_UNP shows the number of unpacked bytes. -/
theorem toNat_unpWord {d : Dec} (h : d.unp.length < 256) : d.unpWord.toNat = d.unp.length := by
  rw [Dec.unpWord, BitVec.toNat_append]
  simpa using h

/-! ### The obligations -/

/-- Settles O15: the completion leaves the cleared words beside the unpacked bytes, and the length law puts these
within UNP_BUF. -/
theorem unpack7FillsUnpBuf : Obligations.Unpack7FillsUnpBuf := by
  refine ⟨fun v hv => decode_of_opField (op := .unpack7) hv, fun s => exec_instr_unwritten (op := .unpack7) rfl, ?_⟩
  intro s S ⟨hmover, hpending⟩ hlen
  have hfits : (unpack7 S.input).length ≤ 223 := length_unpack7_le hlen
  obtain ⟨hres, hhdr, hcsum, hname⟩ := words_cleared
  exact ⟨_, runCommand_completes hmover hpending, rfl, hres, hhdr, hcsum, hname,
    toNat_unpWord (Nat.lt_of_le_of_lt hfits (by decide)), fun w k => byteOf_packWord (unpack7 S.input) w k, hfits⟩

/-- Settles O16: the completion is `completeXsum`, whose fold from the left is the fold from the right. -/
theorem xsumFoldsItsInput : Obligations.XsumFoldsItsInput := by
  refine ⟨fun v hv => decode_of_opField (op := .xsum) hv, fun s => exec_instr_unwritten (op := .xsum) rfl, ?_⟩
  intro s S ⟨hmover, hpending⟩
  rw [← xorFold_eq_foldr]
  exact runCommand_completes hmover hpending

end Sys2Proof.Machine
end

section
/-! PROOFS. Control (43_control.md): what a CMD write does before anything runs (R240), NOP, CLEAR and the reserved
opcodes (R241 to R244). -/

namespace Sys2Proof.Machine

/-! ### The opcodes by their number (30 R91) -/

/-- The opcodes 0x1 to 0x6 are those of the commands that can be accepted (43 R240). -/
theorem exists_opcode_eq {x : BitVec 4} (hlo : 0x1 ≤ x.toNat) (hhi : x.toNat ≤ 0x6) : ∃ op : Cmd, op.opcode = x := by
  have hrow : x = 1 ∨ x = 2 ∨ x = 3 ∨ x = 4 ∨ x = 5 ∨ x = 6 := by revert x; decide
  obtain rfl | rfl | rfl | rfl | rfl | rfl := hrow
  exacts [⟨.advParse, rfl⟩, ⟨.svcQuery, rfl⟩, ⟨.blkDecode, rfl⟩, ⟨.unpack7, rfl⟩, ⟨.xsum, rfl⟩, ⟨.clear, rfl⟩]

/-- The commands that read IN_BUF, by their opcodes (43 R240). -/
theorem Cmd.opcode_mem_iff_readsInput {op : Cmd} : op.opcode ∈ [0x1, 0x3, 0x4, 0x5] ↔ op.readsInput = true := by
  cases op <;> decide

/-- The opcodes 0x1, 0x3, 0x4 and 0x5 are those of the commands that read IN_BUF (43 R240). -/
theorem exists_opcode_eq_readsInput {x : BitVec 4} (h : x ∈ [0x1, 0x3, 0x4, 0x5]) :
    ∃ op : Cmd, op.opcode = x ∧ op.readsInput = true := by
  have hrange : ∀ y ∈ ([0x1, 0x3, 0x4, 0x5] : List (BitVec 4)), 0x1 ≤ y.toNat ∧ y.toNat ≤ 0x6 := by decide
  obtain ⟨hlo, hhi⟩ := hrange x h
  obtain ⟨op, rfl⟩ := exists_opcode_eq hlo hhi
  exact ⟨op, rfl, Cmd.opcode_mem_iff_readsInput.1 h⟩

/-- A word with OP 0 presents NOP, whatever its other bits hold (30 R91, R92). -/
theorem decode_nop {v : Word} (h : opField v = 0) : decode v = .nop := by
  rw [decode, h]
  rfl

/-- An opcode from 7 on names a reserved command (30 R91). -/
theorem decodeOp_reserved {x : BitVec 4} (h : 0x7 ≤ x.toNat) : decodeOp x = .reserved7 ∨ decodeOp x = .reserved8F x := by
  revert x
  decide

/-- A word with an opcode from 7 on presents a reserved command (30 R91). -/
theorem decode_reserved {v : Word} (h : 0x7 ≤ (opField v).toNat) :
    decode v = .reserved7 ∨ ∃ op, decode v = .reserved8F op :=
  (decodeOp_reserved h).imp_right fun hd => ⟨_, hd⟩

/-! ### NOP and the reserved opcodes (43 R241, R243, R244) -/

/-- On an idle block a CMD write of an opcode that is never accepted has its effect (43 R241, R243). -/
theorem unaccepted_idle {effect : State → State} {s : State} (h : s.pending = none) :
    unaccepted effect s = .next (effect s) := by
  rw [unaccepted_eq, State.busy_eq_false.2 h, if_neg Bool.false_ne_true]

/-- On a busy block a CMD write of an opcode that is never accepted is dropped (43 R244). -/
theorem unaccepted_busy {effect : State → State} {s : State} (h : s.pending ≠ none) :
    unaccepted effect s = .next s.dropWrite := by
  have hbusy : s.busy = true := Option.isSome_iff_ne_none.2 h
  rw [unaccepted_eq, if_pos hbusy]

/-- The command of either reserved row is a CMD write that sets ILL and is never accepted (43 R243). -/
theorem exec_reserved {i : Instr} (hi : i = .reserved7 ∨ ∃ op, i = .reserved8F op) (s : State) :
    exec i s = unaccepted State.markIllegal s := by
  obtain rfl | ⟨op, rfl⟩ := hi
  · rfl
  · rfl

/-! ### Acceptance and its snapshot (43 R240, 10 R45) -/

/-- No byte below IN_LEN was left unwritten (70 R297). -/
theorem inputWritten_eq_true {s : State} :
    s.inputWritten = true ↔ ∀ j < s.inLen.toNat, Memory.get s.inBuf j ≠ none := by
  simp [State.inputWritten, State.written, Option.isSome_iff_ne_none]

/-- On an idle block a command whose input is written, where it reads any, is accepted (43 R240). -/
theorem exec_instr_accepts {op : Cmd} {s : State} (hidle : s.pending = none)
    (hwritten : op.readsInput = true → s.inputWritten = true) : exec op.instr s = .next (s.accept op) := by
  rw [exec_instr, runCommand_issues (State.completing_idle hidle), issue, State.busy_eq_false.2 hidle,
    if_neg Bool.false_ne_true, if_neg]
  simpa using hwritten

/-- A snapshot holds IN_LEN bytes (10 R45). -/
theorem length_snapshot_input (s : State) : s.snapshot.input.length = s.inLen.toNat := by
  simp [State.snapshot]

/-- A snapshot holds each written byte below IN_LEN in its place (10 R45). -/
theorem getElem?_snapshot_input {s : State} {j : Nat} {b : Byte} (hj : j < s.inLen.toNat)
    (hb : Memory.get s.inBuf j = some b) : s.snapshot.input[j]? = some b := by
  simp [State.snapshot, hj, inByte_of_get hb]

/-- A word that does not begin in the low word of an append lies in the rest. -/
theorem extractLsb'_append_word {n : Nat} (start : Nat) (hi : BitVec n) (lo : Word) :
    (hi ++ lo).extractLsb' (start + 32) 32 = hi.extractLsb' start 32 :=
  BitVec.extractLsb'_append_eq_of_le (Nat.le_add_left 32 start)

/-- V is the four Q_VAL words, Q_VAL0 lowest (10 R28). -/
theorem qVal_words (s : State) : s.qVal.extractLsb' 0 32 = s.qVal0 ∧ s.qVal.extractLsb' 32 32 = s.qVal1 ∧
    s.qVal.extractLsb' 64 32 = s.qVal2 ∧ s.qVal.extractLsb' 96 32 = s.qVal3 :=
  ⟨BitVec.extractLsb'_append_eq_right,
    (extractLsb'_append_word 0 _ s.qVal0).trans BitVec.extractLsb'_append_eq_right,
    (extractLsb'_append_word 32 _ s.qVal0).trans <|
      (extractLsb'_append_word 0 _ s.qVal1).trans BitVec.extractLsb'_append_eq_right,
    (extractLsb'_append_word 64 _ s.qVal0).trans <|
      (extractLsb'_append_word 32 _ s.qVal1).trans BitVec.extractLsb'_append_eq_left⟩

/-- A pending command stays pending through every step in which the engine does not complete it and the host does not
reset the block (43 R240). -/
theorem pending_kept {s t : State} {p : Pending} (hp : s.pending = some p) (hready : s.engineReady = none)
    (hreset : s.bus.head? ≠ some .reset) (h : step s = .next t) : t.pending = some p := by
  have hbusy : s.busy = true := State.busy_eq_true.2 ⟨p, hp⟩
  obtain ⟨q, hq, -⟩ | ⟨-, -, rfl⟩ | ⟨hs, rest, v, -, -, -, hx⟩ | ⟨hs, rest, -, hbus, -, rfl⟩ := step_next_cases h
  · rw [hready] at hq
    cases hq
  · exact hp
  · rw [exec_host_busy (s := s.cmdTurn) _ rfl hbusy] at hx
    cases hx
    exact hp
  · obtain ⟨resp, draws, ha⟩ | ⟨-, resp, ha⟩ | ⟨hidle, -⟩ | ⟨rfl, -⟩ := hostAccess_cases s.hostTurn hs
    · rw [ha]
      exact hp
    · rw [ha]
      exact hp
    · exact absurd hbusy (Bool.eq_false_iff.1 hidle)
    · exact absurd (by rw [hbus]; rfl) hreset

/-! ### CLEAR (43 R242) -/

/-- What the result registers hold is a matter of the ADV group, the DEC group, Q_RES and XSUM_RES (20 R72). -/
theorem regValue_result_congr {s t : State} {r : Reg} (hr : r.isResult = true) (hadv : s.adv = t.adv)
    (hdec : s.dec = t.dec) (hqRes : s.qRes = t.qRes) (hxsumRes : s.xsumRes = t.xsumRes) :
    s.regValue r = t.regValue r := by
  cases r with
  | ctrl | cmd | status | inLen | qKind | qVal | inBuf => cases hr
  | _ => simp only [State.regValue, hadv, hdec, hqRes, hxsumRes]

/-- After reset DEC_RES reads NO_DECODE and every other result register 0 (10 R48). -/
theorem regValue_reset_result {r : Reg} (hr : r.isResult = true) :
    State.reset.regValue r = if r = .decRes then 0x0000000F else 0 := by
  have hinBuf : ∀ w, r ≠ .inBuf w := by rintro w rfl; cases hr
  have hctrl : r ≠ .ctrl := by rintro rfl; cases hr
  rw [regValue_reset hinBuf, if_neg hctrl]

/-! ### The obligations -/

/-- Settles O8: `exec .nop` is a CMD write that is never accepted and whose effect is to do nothing. -/
theorem nopChangesNothing : Obligations.NopChangesNothing :=
  ⟨fun _ => decode_nop, fun _ => ⟨unaccepted_idle (effect := id), unaccepted_busy (effect := id)⟩⟩

/-- Settles O9: both reserved rows are one operation, and an opcode from 7 on belongs to one of them. -/
theorem reservedOpcodesSetIll : Obligations.ReservedOpcodesSetIll := by
  refine ⟨fun _ => decode_reserved, fun s i hi => ?_⟩
  rw [exec_reserved hi]
  exact ⟨unaccepted_idle, unaccepted_busy⟩

/-- Settles O17: CLEAR leaves the result groups as reset does, so their registers read as after reset. -/
theorem clearRestoresOutputs : Obligations.ClearRestoresOutputs := by
  refine ⟨fun v hv => decode_of_opField (op := .clear) hv, fun s S ⟨hmover, hpending⟩ => ?_⟩
  refine ⟨_, runCommand_completes hmover hpending, rfl, rfl, rfl, rfl, fun r hr => ?_, rfl, rfl, rfl⟩
  have hreset : (completeClear S s).finish.regValue r = State.reset.regValue r :=
    regValue_result_congr hr rfl rfl rfl rfl
  exact hreset.trans (regValue_reset_result hr)

/-- Settles O7: the clauses of the judgement in order, then `pending_kept`. -/
theorem cmdWriteJudgedInOrder : Obligations.CmdWriteJudgedInOrder := by
  refine ⟨fun s v hmover => ⟨exec_host_busy _ hmover, ?nop, ?reserved, ?unwritten, ?accepted⟩,
    fun _ _ _ => pending_kept⟩
  case nop =>
    intro hidle hop
    rw [decode_nop hop]
    exact unaccepted_idle (effect := id) (State.busy_eq_false.1 hidle)
  case reserved =>
    intro hidle hop
    rw [exec_reserved (decode_reserved hop)]
    exact unaccepted_idle (State.busy_eq_false.1 hidle)
  case unwritten =>
    intro hidle hreads hunwritten
    obtain ⟨op, hop, hreadsInput⟩ := exists_opcode_eq_readsInput hreads
    rw [decode_of_opField hop.symm]
    exact exec_instr_unwritten hreadsInput (State.busy_eq_false.1 hidle) hunwritten
  case accepted =>
    intro hidle hlo hhi hwritten
    obtain ⟨op, hop⟩ := exists_opcode_eq hlo hhi
    rw [decode_of_opField hop.symm, ← hop]
    rw [← hop, Cmd.opcode_mem_iff_readsInput, ← inputWritten_eq_true] at hwritten
    obtain ⟨hq0, hq1, hq2, hq3⟩ := qVal_words s
    exact ⟨_, op, s.snapshot, exec_instr_accepts (State.busy_eq_false.1 hidle) hwritten, rfl, rfl,
      length_snapshot_input s, fun _ hj _ => getElem?_snapshot_input hj, rfl, rfl, hq0, hq1, hq2, hq3, rfl⟩

end Sys2Proof.Machine
end

section
/-! PROOFS. Reset and hazards (70_reset_and_hazards.md): the model fault of an unwritten input byte (R297), and reset as
one step of the host (R290, R291). -/

namespace Sys2Proof.Machine

/-! ### The model fault (70 R297) -/

/-- The commands that read IN_BUF, by name (43 R240). -/
theorem exists_instr_eq_readsInput {i : Instr} :
    (∃ op : Cmd, i = op.instr ∧ op.readsInput = true) ↔
      i = .advParse ∨ i = .blkDecode ∨ i = .unpack7 ∨ i = .xsum := by
  constructor
  · rintro ⟨op, rfl, hreads⟩
    cases op with
    | svcQuery | clear => cases hreads
    | advParse | blkDecode | unpack7 | xsum => simp [Cmd.instr]
  · rintro (rfl | rfl | rfl | rfl)
    exacts [⟨.advParse, rfl, rfl⟩, ⟨.blkDecode, rfl, rfl⟩, ⟨.unpack7, rfl, rfl⟩, ⟨.xsum, rfl, rfl⟩]

/-- Every command answers a next state, but one that reads IN_BUF and meets an unwritten input byte on an idle block. -/
theorem exec_next_or_unwritten (i : Instr) (s : State) :
    (∃ t, exec i s = .next t) ∨
      ∃ op : Cmd, i = op.instr ∧ op.readsInput = true ∧ s.pending = none ∧ s.inputWritten = false := by
  by_cases hi : ∃ op : Cmd, i = op.instr
  · obtain ⟨op, rfl⟩ := hi
    rw [exec_instr]
    cases hc : s.completing op with
    | some S =>
      obtain ⟨hmover, hpending⟩ := State.completing_eq_some.1 hc
      exact .inl ⟨_, runCommand_completes hmover hpending⟩
    | none =>
      rw [runCommand_issues hc]
      obtain ⟨_, hdrop⟩ | ⟨hidle, hreads, hunwritten, _⟩ | ⟨_, _, haccept⟩ := issue_cases (op := op) (s := s)
      · exact .inl ⟨_, hdrop⟩
      · exact .inr ⟨op, rfl, hreads, State.busy_eq_false.1 hidle, hunwritten⟩
      · exact .inl ⟨_, haccept⟩
  · obtain ⟨_, _, hnext⟩ := exec_unaccepted (s := s) fun op hop => hi ⟨op, hop⟩
    exact .inl ⟨_, hnext⟩

/-! ### The obligations -/

/-- Settles O10: `exec_next_or_unwritten` leaves one case without a next state, and that case faults. -/
theorem faultExactlyOnUnwrittenInput : Obligations.FaultExactlyOnUnwrittenInput := by
  refine ⟨fun i s => ⟨fun hfault => ?_, ?_⟩, fun i s => ?_⟩
  · obtain ⟨t, hnext⟩ | ⟨op, hop, hreads, hidle, hunwritten⟩ := exec_next_or_unwritten i s
    · rw [hnext] at hfault
      cases hfault
    · exact ⟨hidle, exists_instr_eq_readsInput.1 ⟨op, hop, hreads⟩, inputWritten_eq_false.1 hunwritten⟩
  · rintro ⟨hidle, hi, hunwritten⟩
    obtain ⟨op, rfl, hreads⟩ := exists_instr_eq_readsInput.2 hi
    exact exec_instr_unwritten hreads hidle hunwritten
  · refine (exec_next_or_unwritten i s).imp_right ?_
    rintro ⟨op, rfl, hreads, hidle, hunwritten⟩
    exact exec_instr_unwritten hreads hidle (inputWritten_eq_false.1 hunwritten)

/-- Settles O54: reset presents no command, so the step is the reset event, which keeps of the state only the host's
list and the count of draws. -/
theorem resetDiscardsPendingCommand : Obligations.ResetDiscardsPendingCommand := fun _ hnext =>
  ⟨_, step_hostAccess hnext rfl, rfl, rfl, rfl⟩

end Sys2Proof.Machine
end

section
/-! PROOFS. The decoder and the encoder of the command word (30_encoding.md): the round trip both ways. -/

namespace Sys2Proof

/-- Every command's round trip (30 R90, R92). -/
theorem Laws.roundTrip (i : Instr) : Laws.RoundTrip.Statement i :=
  match i with
  | .nop => Laws.RoundTrip.nop
  | .advParse => Laws.RoundTrip.advParse
  | .svcQuery => Laws.RoundTrip.svcQuery
  | .blkDecode => Laws.RoundTrip.blkDecode
  | .unpack7 => Laws.RoundTrip.unpack7
  | .xsum => Laws.RoundTrip.xsum
  | .clear => Laws.RoundTrip.clear
  | .reserved7 => Laws.RoundTrip.reserved7
  | .reserved8F op => Laws.RoundTrip.reserved8F op

/-- An opcode is the opcode of the command it names (30 R91). -/
@[simp] theorem opcode_decodeOp (op : BitVec 4) : (decodeOp op).opcode = op := by
  revert op
  decide

/-- Every opcode names a well-formed command (30 R93). -/
theorem wellFormed_decodeOp (op : BitVec 4) : (decodeOp op).wellFormed = true := by
  revert op
  decide

/-- The low `n` bits of a word, standing alone in a word. -/
theorem zeroExtend_low (v : Word) (n : Nat) :
    (v.extractLsb' 0 n).zeroExtend 32 = v &&& BitVec.ofNat 32 (2 ^ n - 1) := by
  apply BitVec.eq_of_getLsbD_eq
  intro i hi
  rw [BitVec.getLsbD_setWidth, BitVec.getLsbD_extractLsb', BitVec.getLsbD_and, BitVec.getLsbD_ofNat,
    Nat.testBit_two_pow_sub_one, decide_eq_true hi, Bool.true_and, Bool.true_and, Nat.zero_add, Bool.and_comm]

/-- Encoding a decoded word keeps its opcode and leaves the ignored bits 0 (30 R92). -/
theorem encode_decode (v : Word) : encode (decode v) = v &&& 0xF := by
  rw [encode, decode, opcode_decodeOp]
  exact zeroExtend_low v 4

/-- Settles O1: `Laws.roundTrip` from the command's side, `encode_decode` from the word's. -/
theorem decodeAndEncodeAgree : Obligations.DecodeAndEncodeAgree :=
  ⟨Laws.roundTrip, fun v => ⟨wellFormed_decodeOp (opField v), encode_decode v⟩⟩

/-- Settles O3: the decoder evaluated on the eleven words. -/
theorem specWordsDecode : Obligations.SpecWordsDecode := by
  unfold Obligations.SpecWordsDecode
  decide

end Sys2Proof
end

section
/-! PROOFS. One step of the step sequence (20 R75): what the engine's step, the host's step and the idle step leave,
said once; and the claims about single steps and completions that follow. -/

namespace Sys2Proof.Machine

/-! ### Completion (43 R245) -/

/-- The engine's step of the pending command answers its effect and the completion. -/
theorem exec_instr_completes {op : Cmd} {s : State} {S : Snapshot} (h : s.Completes op S) :
    exec op.instr s = .next (op.effect S s).finish :=
  (exec_instr op s).trans (runCommand_completes h.1 h.2)

/-- An effect writes ILL, OVR and the results only. -/
theorem Cmd.effect_frame (op : Cmd) (S : Snapshot) (s : State) :
    op.effect S s =
      { s with ill := (op.effect S s).ill, ovr := (op.effect S s).ovr, qRes := (op.effect S s).qRes,
               xsumRes := (op.effect S s).xsumRes, adv := (op.effect S s).adv, dec := (op.effect S s).dec } := by
  cases op <;> rfl

/-- ILL after an effect: CLEAR clears it, SVC_QUERY with Q_KIND 3 sets it (43 R245). -/
theorem Cmd.effect_ill (op : Cmd) (S : Snapshot) (s : State) :
    (op.effect S s).ill = if op = .clear then false else if op = .svcQuery ∧ S.qKind = 3 then true else s.ill := by
  cases op with
  | svcQuery => simp [Cmd.effect, Bool.beq_eq_decide_eq, Bool.or_comm]
  | _ => rfl

/-- OVR after an effect: CLEAR clears it (43 R245). -/
theorem Cmd.effect_ovr (op : Cmd) (S : Snapshot) (s : State) :
    (op.effect S s).ovr = if op = .clear then false else s.ovr := by
  cases op <;> rfl

/-- The ADV group is written by ADV_PARSE and CLEAR only (30 R91). -/
theorem Cmd.effect_adv {op : Cmd} (h : op ∉ [.advParse, .clear]) (S : Snapshot) (s : State) :
    (op.effect S s).adv = s.adv := by
  cases op with
  | advParse | clear => simp at h
  | _ => rfl

/-- The DEC group is written by BLK_DECODE, UNPACK7 and CLEAR only (30 R91). -/
theorem Cmd.effect_dec {op : Cmd} (h : op ∉ [.blkDecode, .unpack7, .clear]) (S : Snapshot) (s : State) :
    (op.effect S s).dec = s.dec := by
  cases op with
  | blkDecode | unpack7 | clear => simp at h
  | _ => rfl

/-- Q_RES is written by ADV_PARSE, SVC_QUERY and CLEAR only (10 R29). -/
theorem Cmd.effect_qRes {op : Cmd} (h : op ∉ [.advParse, .svcQuery, .clear]) (S : Snapshot) (s : State) :
    (op.effect S s).qRes = s.qRes := by
  cases op with
  | advParse | svcQuery | clear => simp at h
  | _ => rfl

/-- XSUM_RES is written by XSUM and CLEAR only (10 R44). -/
theorem Cmd.effect_xsumRes {op : Cmd} (h : op ∉ [.xsum, .clear]) (S : Snapshot) (s : State) :
    (op.effect S s).xsumRes = s.xsumRes := by
  cases op with
  | xsum | clear => simp at h
  | _ => rfl

/-- No command writes an input register or IN_BUF, the host's list, the answer or the mover, whatever its step does. -/
theorem exec_frame {i : Instr} {s t : State} (h : exec i s = .next t) :
    t = { s with done := t.done, ill := t.ill, ovr := t.ovr, lastOp := t.lastOp, qRes := t.qRes,
                 xsumRes := t.xsumRes, adv := t.adv, dec := t.dec, pending := t.pending, wait := t.wait,
                 draws := t.draws } := by
  obtain ⟨op, S, -, -, -, rfl⟩ | ⟨-, rfl⟩ | ⟨op, -, -, -, rfl⟩ | ⟨-, rfl⟩ | ⟨-, rfl⟩ := exec_next_cases h
  · cases op <;> rfl
  all_goals rfl

/-! ### The three kinds of step -/

/-- When a command is ready the step is its completion (70 R303). -/
theorem step_engine {s : State} {p : Pending} (h : s.engineReady = some p) : step s = exec p.op.instr s.engineTurn := by
  simp only [step, h]

theorem step_engine_completes {s : State} {p : Pending} (h : s.engineReady = some p) :
    step s = .next (p.op.effect p.snap s.engineTurn).finish :=
  (step_engine h).trans (exec_instr_completes ⟨rfl, (State.engineReady_eq_some.1 h).1⟩)

/-- With no command ready and no host step left the state is kept (60 R271). -/
theorem step_idle {s : State} (hready : s.engineReady = none) (hbus : s.bus = []) : step s = .next s := by
  simp only [step, hready, hbus]

/-- No command is ready to complete while the host has a step and the latency has not passed. -/
theorem State.engineReady_waiting {s : State} (hbus : s.bus ≠ []) (hwait : s.wait ≠ 0) : s.engineReady = none :=
  Option.eq_none_iff_forall_ne_some.2 fun _ h => (State.engineReady_eq_some.1 h).2.elim hbus hwait

/-- The host's next step is the head of its list. -/
theorem State.hostNext_of_bus {s : State} {h : HostStep} {rest : List HostStep} (hready : s.engineReady = none)
    (hbus : s.bus = h :: rest) : s.HostNext h :=
  ⟨hready, by rw [hbus, List.head?_cons]⟩

/-- A step answers a next state, or it is a CMD write that meets an unwritten input byte on an idle block. -/
theorem step_next_or_unwritten (s : State) :
    (∃ t, step s = .next t) ∨
      ∃ (op : Cmd) (v : Word) (rest : List HostStep), s.engineReady = none ∧ s.bus = hostWrite 0x004 v :: rest ∧
        decode v = op.instr ∧ op.readsInput = true ∧ s.pending = none ∧ s.inputWritten = false := by
  cases hready : s.engineReady with
  | some p => exact .inl ⟨_, step_engine_completes hready⟩
  | none =>
    cases hbus : s.bus with
    | nil => exact .inl ⟨s, step_idle hready hbus⟩
    | cons h rest =>
      cases hcmd : cmdWord h with
      | none => exact .inl ⟨_, step_hostAccess (State.hostNext_of_bus hready hbus) hcmd⟩
      | some v =>
        obtain rfl := cmdWord_some hcmd
        rw [step_cmdWrite (State.hostNext_of_bus hready hbus)]
        refine (exec_next_or_unwritten (decode v) s.cmdTurn).imp_right ?_
        rintro ⟨op, hop, hreads, hidle, hunwritten⟩
        exact ⟨op, v, rest, rfl, rfl, hop, hreads, hidle, hunwritten⟩

/-! ### What a step leaves in the block -/

/-- A store of a register sees nothing but the block. -/
theorem block_storeReg (s : State) (v : Word) (r : Reg) : (s.storeReg v r).block = s.block.storeReg v r := by
  cases r with
  | qVal i =>
    simp only [State.storeReg]
    split_ifs <;> rfl
  | _ => rfl

/-- What a step of the host other than reset can make of the block: nothing, a dropped write, a reserved opcode
recorded, a store of an input register, an acceptance. -/
inductive State.HostEffect (s : State) : State → Prop where
  | same : s.HostEffect s
  | dropped (hbusy : s.busy = true) : s.HostEffect s.dropWrite
  | illegal (hidle : s.busy = false) : s.HostEffect s.markIllegal
  | stored (v : Word) (r : Reg) (hidle : s.busy = false) : s.HostEffect (s.storeReg v r)
  | accepted (op : Cmd) (hidle : s.busy = false) (hwritten : op.readsInput = true → s.inputWritten = true) :
    s.HostEffect (s.accept op)

/-- A CMD write has one of these effects. -/
theorem exec_cmdTurn_hostEffect {i : Instr} {s t : State} (h : exec i s.cmdTurn = .next t) :
    ∃ u, s.HostEffect u ∧ t.block = u.block := by
  obtain ⟨_, _, -, hmover, -⟩ | ⟨hbusy, rfl⟩ | ⟨op, -, hidle, hwritten, rfl⟩ | ⟨-, rfl⟩ | ⟨hidle, rfl⟩ :=
    exec_next_cases h
  · cases hmover
  · exact ⟨_, .dropped hbusy, rfl⟩
  · exact ⟨_, .accepted op hidle hwritten, rfl⟩
  · exact ⟨_, .same, rfl⟩
  · exact ⟨_, .illegal hidle, rfl⟩

/-- Any other host step but reset has one of these effects. -/
theorem hostAccess_hostEffect (s : State) {hs : HostStep} (hreset : hs ≠ .reset) :
    ∃ u, s.HostEffect u ∧ (s.hostTurn.hostAccess hs).block = u.block := by
  obtain ⟨_, _, ha⟩ | ⟨hbusy, _, ha⟩ | ⟨hidle, v, r, _, ha⟩ | ⟨rfl, -⟩ := hostAccess_cases s.hostTurn hs
  · exact ⟨_, .same, by rw [ha]; rfl⟩
  · exact ⟨_, .dropped hbusy, by rw [ha]; rfl⟩
  · have hstored : (s.hostTurn.storeReg v r).block = (s.storeReg v r).block :=
      (block_storeReg s.hostTurn v r).trans (block_storeReg s v r).symm
    exact ⟨_, .stored v r hidle, by rw [ha]; exact hstored⟩
  · exact absurd rfl hreset

/-- Everything a step can leave in the block: a completion, the reset state, an effect of the host's step. -/
theorem step_block_cases {s t : State} (h : step s = .next t) :
    (∃ p, s.engineReady = some p ∧ t = (p.op.effect p.snap s.engineTurn).finish) ∨
      (s.HostNext .reset ∧ t.block = State.reset.block) ∨
      (s.engineReady = none ∧ ∃ u, s.HostEffect u ∧ t.block = u.block) := by
  obtain ⟨p, hready, -⟩ | ⟨hready, -, rfl⟩ | ⟨hs, rest, v, hready, -, -, hx⟩ | ⟨hs, rest, hready, hbus, -, rfl⟩ :=
    step_next_cases h
  · rw [step_engine_completes hready] at h
    cases h
    exact .inl ⟨p, hready, rfl⟩
  · exact .inr (.inr ⟨hready, _, .same, rfl⟩)
  · exact .inr (.inr ⟨hready, exec_cmdTurn_hostEffect hx⟩)
  · by_cases hreset : hs = .reset
    · subst hreset
      exact .inr (.inl ⟨State.hostNext_of_bus hready hbus, rfl⟩)
    · exact .inr (.inr ⟨hready, hostAccess_hostEffect s hreset⟩)

/-- The host's step clears neither sticky bit (60 R263). -/
theorem State.HostEffect.keeps_sticky {s u : State} (h : s.HostEffect u) :
    (s.ill = true → u.ill = true) ∧ (s.ovr = true → u.ovr = true) := by
  cases h with
  | same | accepted => exact ⟨id, id⟩
  | dropped => exact ⟨id, fun _ => rfl⟩
  | illegal => exact ⟨fun _ => rfl, id⟩
  | stored v r =>
    rw [storeReg_frame]
    exact ⟨id, id⟩

/-- The host's step changes no result (70 R304). -/
theorem State.HostEffect.keeps_results {s u : State} (h : s.HostEffect u) :
    u.adv = s.adv ∧ u.dec = s.dec ∧ u.qRes = s.qRes ∧ u.xsumRes = s.xsumRes := by
  cases h with
  | stored v r =>
    rw [storeReg_frame]
    exact ⟨rfl, rfl, rfl, rfl⟩
  | _ => exact ⟨rfl, rfl, rfl, rfl⟩

/-! ### The host's steps while a command is pending (70 R303) -/

/-- While a command waits, a step of the host other than reset answers a next state, and takes one host step from the
list and one from the latency. -/
theorem step_waiting {s : State} (hbusy : s.busy = true) (hready : s.engineReady = none) (hbus : s.bus ≠ [])
    (hreset : s.bus.head? ≠ some .reset) :
    ∃ t, step s = .next t ∧ t.bus = s.bus.tail ∧ t.wait = s.wait - 1 := by
  obtain ⟨hs, rest, hcons⟩ := List.exists_cons_of_ne_nil hbus
  have hnext : s.HostNext hs := State.hostNext_of_bus hready hcons
  cases hcmd : cmdWord hs with
  | some v =>
    obtain rfl := cmdWord_some hcmd
    exact ⟨_, (step_cmdWrite hnext).trans (exec_host_busy _ rfl hbusy), rfl, rfl⟩
  | none =>
    refine ⟨_, step_hostAccess hnext hcmd, ?_⟩
    obtain ⟨_, _, ha⟩ | ⟨-, _, ha⟩ | ⟨hidle, -⟩ | ⟨rfl, -⟩ := hostAccess_cases s.hostTurn hs
    · rw [ha]
      exact ⟨rfl, rfl⟩
    · rw [ha]
      exact ⟨rfl, rfl⟩
    · exact absurd hbusy (Bool.eq_false_iff.1 hidle)
    · exact absurd hnext.2 hreset

/-- One step, then the rest of the run. -/
theorem run_succ_of_step {M : Host.Core} {n : Nat} {s t : M.State} (h : M.step s = .next t) :
    M.run (n + 1) s = M.run n t := by
  rw [Host.Core.run, h]

/-- A run of one step completes a command that is ready. -/
theorem run_one_of_ready {s : State} {p : Pending} (h : s.engineReady = some p) :
    ∃ t : State, core.run 1 s = .next t ∧ t.pending = none ∧ t.done = true :=
  ⟨_, run_succ_of_step (M := core) (n := 0) (step_engine_completes h), rfl, rfl⟩

/-- A pending command completes once its latency has passed (70 R303, log entry 3). -/
theorem run_completes {s : State} {p : Pending} (hp : s.pending = some p) (hreset : HostStep.reset ∉ s.bus) :
    ∃ n ≤ s.wait + 1, ∃ t, core.run n s = .next t ∧ t.pending = none ∧ t.done = true := by
  induction hw : s.wait generalizing s with
  | zero =>
    have hready : s.engineReady = some p := State.engineReady_eq_some.2 ⟨hp, .inr hw⟩
    exact ⟨1, le_rfl, run_one_of_ready hready⟩
  | succ w ih =>
    by_cases hbus : s.bus = []
    · have hready : s.engineReady = some p := State.engineReady_eq_some.2 ⟨hp, .inl hbus⟩
      exact ⟨1, by omega, run_one_of_ready hready⟩
    · have hready : s.engineReady = none := State.engineReady_waiting hbus (by omega)
      have hhead : s.bus.head? ≠ some .reset := fun h => hreset (List.mem_of_mem_head? h)
      obtain ⟨u, hstep, hubus, huwait⟩ := step_waiting (State.busy_eq_true.2 ⟨p, hp⟩) hready hbus hhead
      obtain ⟨n, hn, t, hrun, ht⟩ := ih (s := u) (pending_kept hp hready hhead hstep)
        (hubus ▸ fun h => hreset (List.mem_of_mem_tail h)) (by omega)
      exact ⟨n + 1, by omega, t, (run_succ_of_step (M := core) hstep).trans hrun, ht⟩

/-! ### The snapshot (10 R45) -/

/-- The snapshot's bytes are a matter of IN_LEN and the written bytes below it. -/
theorem snapshot_input_congr {s₁ s₂ : State} (hlen : s₁.inLen = s₂.inLen)
    (hbytes : ∀ j < s₁.inLen.toNat,
      Memory.get s₁.inBuf j ≠ none ∧ Memory.get s₁.inBuf j = Memory.get s₂.inBuf j) :
    s₁.snapshot.input = s₂.snapshot.input := by
  simp only [State.snapshot, ← hlen]
  refine List.map_congr_left fun j hj => ?_
  obtain ⟨hwritten, hsame⟩ := hbytes j (List.mem_range.1 hj)
  obtain ⟨b, hb⟩ := Option.ne_none_iff_exists'.1 hwritten
  rw [inByte_of_get hb, inByte_of_get (hsame ▸ hb)]

/-! ### The obligations -/

/-- Settles O4: `step_cmdWrite` on the host's turn; the word placed stands before the list, so no command is ready. -/
theorem stepRunsPresentedCommand : Obligations.StepRunsPresentedCommand := by
  have hwrite (s : State) (v : Word) (rest : List HostStep) (hready : s.engineReady = none)
      (hbus : s.bus = hostWrite 0x004 v :: rest) :
      step s = exec (decode v) { s with bus := rest, mover := .host, wait := s.wait - 1, resp := some .writeOk } := by
    rw [step_cmdWrite (State.hostNext_of_bus hready hbus), State.cmdTurn, State.hostTurn, hbus, List.tail_cons]
  refine ⟨hwrite, fun s nbits w hfits => ?_⟩
  rw [State.withFetchWord, tableWord, if_pos hfits]
  exact hwrite _ _ s.bus (State.engineReady_waiting (List.cons_ne_nil _ _) (Nat.succ_ne_zero _)) rfl

/-- Settles O5: `step_engine` and `step_idle`. -/
theorem stepWithoutAHostStep : Obligations.StepWithoutAHostStep :=
  ⟨fun _ _ hp hready => step_engine (State.engineReady_eq_some.2 ⟨hp, hready⟩),
    fun _ hp hbus => step_idle (State.engineReady_idle hp) hbus⟩

/-- Settles O6: the one case of `step_next_or_unwritten` without a next state faults. -/
theorem stepStopsOnlyOnUnwrittenInput : Obligations.StepStopsOnlyOnUnwrittenInput := by
  intro s
  refine (step_next_or_unwritten s).imp_right ?_
  rintro ⟨op, v, rest, hready, hbus, hop, hreads, hidle, hunwritten⟩
  have hbyte := inputWritten_eq_false.1 hunwritten
  have hopcode : opField v = op.opcode := by
    rw [← opcode_decodeOp (opField v), ← decode, hop]
    cases op <;> rfl
  refine ⟨?_, hidle, v, rest, hbus, hopcode ▸ Cmd.opcode_mem_iff_readsInput.2 hreads, hbyte⟩
  rw [step_cmdWrite (State.hostNext_of_bus hready hbus), hop]
  exact exec_instr_unwritten (s := s.cmdTurn) hreads hidle hbyte

/-- Settles O14: `exec_instr_completes` for BLK_DECODE. -/
theorem blkDecodeOverwritesDecGroup : Obligations.BlkDecodeOverwritesDecGroup :=
  fun _ _ hcompletes => exec_instr_completes hcompletes

/-- Settles O18: the completion is the command's effect, which leaves LAST_OP and says what becomes of ILL and OVR. -/
theorem completionWritesStatus : Obligations.CompletionWritesStatus := by
  intro s op S hcompletes
  have hlastOp : (op.effect S s).lastOp = s.lastOp := by rw [Cmd.effect_frame]
  exact ⟨_, exec_instr_completes hcompletes, rfl, rfl, rfl, hlastOp, op.effect_ill S s, op.effect_ovr S s⟩

/-- Settles O19: `exec_frame`, field by field. -/
theorem noCommandWritesInputs : Obligations.NoCommandWritesInputs := by
  intro i s t h
  rw [exec_frame h]
  exact ⟨fun _ => rfl, rfl, rfl, rfl, rfl, rfl, rfl, rfl, rfl, rfl, rfl⟩

/-- Settles O20: each block takes the bytes and CTRL into its snapshot, and the DEC group is `decodeBlock` of these. -/
theorem decodeDependsOnlyOnItsBlock : Obligations.DecodeDependsOnlyOnItsBlock := by
  intro s₁ s₂ hidle₁ hidle₂ hlen hctrl hbytes
  have hwritten₁ : s₁.inputWritten = true := inputWritten_eq_true.2 fun j hj => (hbytes j hj).1
  have hwritten₂ : s₂.inputWritten = true := inputWritten_eq_true.2 fun j hj =>
    (hbytes j (hlen ▸ hj)).2 ▸ (hbytes j (hlen ▸ hj)).1
  refine ⟨_, _, _, _, exec_instr_accepts (op := .blkDecode) hidle₁ fun _ => hwritten₁,
    exec_instr_accepts (op := .blkDecode) hidle₂ fun _ => hwritten₂,
    exec_instr_completes (op := .blkDecode) ⟨rfl, rfl⟩, exec_instr_completes (op := .blkDecode) ⟨rfl, rfl⟩,
    rfl, rfl, ?_⟩
  change decodeBlock Config.params s₁.snapshot.input s₁.ctrl = decodeBlock Config.params s₂.snapshot.input s₂.ctrl
  rw [snapshot_input_congr hlen hbytes, hctrl]

/-- Settles O50: a read reaches the window, where `block_readWindow` speaks of it, or nothing at all. -/
theorem readsHaveNoSideEffect : Obligations.ReadsHaveNoSideEffect := by
  intro s bits place hnext
  refine ⟨_, step_hostAccess hnext rfl, ?_⟩
  cases place with
  | window off => exact block_readWindow s.hostTurn bits off
  | elsewhere addr => rfl

/-- Settles O57: a completion clears a sticky bit only by `Cmd.effect_ill` and `Cmd.effect_ovr` at CLEAR, and the host's
step clears none. -/
theorem stickyBitsClearedOnlyByClearAndReset : Obligations.StickyBitsClearedOnlyByClearAndReset := by
  intro s t h
  obtain ⟨p, hready, rfl⟩ | ⟨hreset, -⟩ | ⟨-, u, heffect, hblock⟩ := step_block_cases h
  · by_cases hclear : p.op = .clear
    · exact .inl ⟨p, hready, hclear⟩
    · refine .inr (.inr ⟨fun hill => ?_, fun hovr => ?_⟩)
      · rw [State.finish_ill, Cmd.effect_ill, if_neg hclear, State.engineTurn_ill, hill, ite_self]
      · rw [State.finish_ovr, Cmd.effect_ovr, if_neg hclear, State.engineTurn_ovr, hovr]
  · exact .inr (.inl hreset)
  · have hill : t.ill = u.ill := (congrArg State.ill hblock :)
    have hovr : t.ovr = u.ovr := (congrArg State.ovr hblock :)
    rw [hill, hovr]
    exact .inr (.inr heffect.keeps_sticky)

/-- Settles O58: a completion writes the groups its command writes, and the host's step changes no result. -/
theorem resultsStableBetweenCompletions : Obligations.ResultsStableBetweenCompletions := by
  intro s t h hreset
  obtain ⟨p, hready, rfl⟩ | ⟨hreset', -⟩ | ⟨-, u, heffect, hblock⟩ := step_block_cases h
  · exact ⟨fun hw => Cmd.effect_adv (hw p hready) _ _, fun hw => Cmd.effect_dec (hw p hready) _ _,
      fun hw => Cmd.effect_qRes (hw p hready) _ _, fun hw => Cmd.effect_xsumRes (hw p hready) _ _⟩
  · exact absurd hreset' hreset
  · obtain ⟨hadv, hdec, hqRes, hxsumRes⟩ := heffect.keeps_results
    exact ⟨fun _ => (congrArg State.adv hblock :).trans hadv, fun _ => (congrArg State.dec hblock :).trans hdec,
      fun _ => (congrArg State.qRes hblock :).trans hqRes, fun _ => (congrArg State.xsumRes hblock :).trans hxsumRes⟩

/-- Settles O59: `run_completes`. -/
theorem pendingCommandCompletes : Obligations.PendingCommandCompletes := fun _ _ => run_completes

end Sys2Proof.Machine
end

section
/-! PROOFS. The fields of a register in their bits (10 R22 to R44): a word put together from fields shows each field in
its place, and what every register outside the ADV group and the byte arrays shows. -/

namespace Sys2Proof.Machine

/-! ### A field of a word put together from fields -/

section Fields

variable {m n k len start i : Nat} {hi : BitVec m} {lo : BitVec n} {x : BitVec len} {b : Bool}

/-- The lowest field. -/
theorem field_lowest : (hi ++ lo).extractLsb' 0 n = lo := BitVec.extractLsb'_append_eq_right

/-- A field above the lowest one, where it stands in the rest. -/
theorem field_above (h : n ≤ start) (hx : hi.extractLsb' (start - n) len = x) : (hi ++ lo).extractLsb' start len = x :=
  (BitVec.extractLsb'_append_eq_of_le h).trans hx

/-- A one-bit field at the bottom. -/
theorem bit_lowest : (hi ++ BitVec.ofBool b).getLsbD 0 = b := by
  rw [BitVec.getLsbD_append, if_pos Nat.one_pos, BitVec.getLsbD_ofBool, decide_eq_true rfl, Bool.true_and]

/-- A bit above the lowest field, where it stands in the rest. -/
theorem bit_above (h : n ≤ i) (hb : hi.getLsbD (i - n) = b) : (hi ++ lo).getLsbD i = b := by
  rw [BitVec.getLsbD_append, if_neg (by omega), hb]

/-- The field of a word that holds one field only. -/
theorem field_zeroExtend (h : n ≤ k) : (lo.zeroExtend k).extractLsb' 0 n = lo :=
  (BitVec.extractLsb'_setWidth_of_le (by omega)).trans BitVec.extractLsb'_eq_self

/-- A bit of a word that holds one field only. -/
theorem bit_zeroExtend (h : i < k) : (lo.zeroExtend k).getLsbD i = lo.getLsbD i := by
  rw [BitVec.getLsbD_setWidth, decide_eq_true h, Bool.true_and]

/-- The reserved bits of a word that holds one field only. -/
theorem reserved_zeroExtend (h : n ≤ start) : (lo.zeroExtend k).extractLsb' start len = 0 := by
  ext i hi
  simp [BitVec.getLsbD_of_ge lo (start + i) (by omega)]

end Fields

/-! ### DEC_RES and the result codes (10 R39, 30 R110) -/

/-- The numbers of the result codes are 0 to 10 and 15. -/
theorem DecCode.value_range (c : DecCode) : c.value.toNat ≤ 10 ∨ c.value.toNat = 15 := by
  cases c <;> decide

/-- CODE stands in bits 3:0. -/
theorem resWord_code (d : Dec) : d.resWord.extractLsb' 0 4 = d.code.value := field_lowest

/-- MSG stands in bit 8. -/
theorem resWord_msg (d : Dec) : d.resWord.getLsbD 8 = d.msg := bit_above (by decide) (bit_above (by decide) bit_lowest)

/-- The other bits are 0. -/
theorem resWord_reserved (d : Dec) : d.resWord.extractLsb' 4 4 = 0 ∧ d.resWord.extractLsb' 9 23 = 0 :=
  ⟨field_above (by decide) field_lowest,
    field_above (by decide) (field_above (by decide) (field_above (by decide) BitVec.extractLsb'_eq_self))⟩

/-! ### The answer to a register read (20 R72) -/

/-- A register that may not be any value answers as it stands. -/
theorem readReg_stands {s : State} {r : Reg} (h : s.pending = none ∨ r.isResult = false) :
    s.readReg r = s.regValue r := by
  refine if_neg ?_
  rcases h with hidle | hr
  · simp [State.busy, hidle]
  · simp [hr]

/-- A result register answers a free value while a command is pending. -/
theorem readReg_free {s : State} {r : Reg} (hbusy : s.pending ≠ none) (hr : r.isResult = true) :
    s.readReg r = Config.freeWord s.draws := by
  have hb : s.busy = true := Option.isSome_iff_ne_none.2 hbusy
  rw [State.readReg, hr, hb, Bool.and_self, if_pos rfl]

/-! ### The obligations -/

/-- Settles O52: each field by its place in STATUS. -/
theorem statusFieldsInPlace : Obligations.StatusFieldsInPlace := by
  intro s v
  refine ⟨bit_lowest, ?done, ?ill, ?ovr, ?lastOp, ?reserved⟩
  case done => exact bit_above (by decide) bit_lowest
  case ill => exact bit_above (by decide) (bit_above (by decide) bit_lowest)
  case ovr => exact bit_above (by decide) (bit_above (by decide) (bit_above (by decide) bit_lowest))
  case lastOp =>
    exact field_above (by decide) (field_above (by decide) (field_above (by decide) (field_above (by decide)
      field_lowest)))
  case reserved =>
    exact field_above (by decide) (field_above (by decide) (field_above (by decide) (field_above (by decide)
      (field_above (by decide) BitVec.extractLsb'_eq_self))))

/-- Settles O49: the answer is `readReg`; each field is found in its place by the lemmas on fields. -/
theorem registerReadAnswers : Obligations.RegisterReadAnswers := by
  refine ⟨fun s r hn => ?answer, fun s => ⟨?ctrl, rfl, ?inLen, ?qKind, rfl, rfl, rfl, rfl, ?qRes, ?xsumRes, rfl,
    ?decRes, ?decHdr, ?decCsum, ?decUnp, rfl, ?decName,
    rfl, rfl, rfl, rfl, rfl, rfl, rfl, rfl, rfl, rfl, rfl, rfl⟩⟩
  case answer =>
    obtain ⟨t, hstep, hblock, hresp⟩ := step_readReg hn
    exact ⟨t, hstep, hblock, fun h => by rw [hresp, readReg_stands (s := s.hostTurn) h],
      fun hbusy hr => by rw [hresp, readReg_free (s := s.hostTurn) hbusy hr, State.hostTurn_draws]⟩
  case ctrl =>
    exact ⟨bit_zeroExtend (by decide), bit_zeroExtend (by decide), bit_zeroExtend (by decide),
      reserved_zeroExtend le_rfl⟩
  case inLen | qKind | xsumRes => exact ⟨field_zeroExtend (by decide), reserved_zeroExtend le_rfl⟩
  case qRes => exact ⟨(bit_zeroExtend (by decide)).trans (by simp), reserved_zeroExtend le_rfl⟩
  case decRes =>
    obtain ⟨hmid, hhigh⟩ := resWord_reserved s.dec
    refine ⟨resWord_code s.dec, (resWord_code s.dec).symm ▸ s.dec.code.value_range, ?_, hmid, hhigh⟩
    exact (resWord_msg s.dec).symm ▸ beq_iff_eq
  case decHdr =>
    exact ⟨field_lowest, field_above (by decide) field_lowest,
      field_above (by decide) (field_above (by decide) field_lowest),
      field_above (by decide) (field_above (by decide) (field_above (by decide) BitVec.extractLsb'_eq_self))⟩
  case decCsum =>
    exact ⟨field_lowest, field_above (by decide) field_lowest,
      field_above (by decide) (field_above (by decide) BitVec.extractLsb'_eq_self)⟩
  case decUnp => exact fun hlen => toNat_unpWord (by omega)
  case decName => exact ⟨nameWord_nlen s.dec, nameWord_nstart s.dec, nameWord_high s.dec⟩

end Sys2Proof.Machine
end

section
/-! PROOFS. Writing the input registers on an idle block: what is read back (10 R23 to R28, 20 R69, R70), and LOAD as a
run of such writes (30 R113, 70 R293). -/

namespace Sys2Proof.Machine

/-! ### One write on an idle block (20 R66) -/

/-- On an idle block the write of a register other than CMD stores it. -/
theorem step_store {s : State} {r : Reg} {v : Word} {rest : List HostStep} (hr : r ≠ .cmd) (hidle : s.pending = none)
    (hbus : s.bus = hostWrite (BitVec.ofNat 12 r.offset) v :: rest) :
    step s = .next { s.hostTurn.storeReg v r with resp := some .writeOk } := by
  have hnext : s.HostNext (hostWrite (BitVec.ofNat 12 r.offset) v) :=
    State.hostNext_of_bus (State.engineReady_idle hidle) hbus
  rw [step_writeReg hr hnext, writeReg_idle (s := s.hostTurn) v r (State.busy_eq_false.2 hidle)]

/-- A store neither accepts nor completes a command (20 R66). -/
theorem storeReg_pending (s : State) (v : Word) (r : Reg) : (s.storeReg v r).pending = s.pending := by
  rw [storeReg_frame]

/-- A store takes no step from the host's list. -/
theorem storeReg_bus (s : State) (v : Word) (r : Reg) : (s.storeReg v r).bus = s.bus := by
  rw [storeReg_frame]

/-! ### Reading back -/

/-- A word is its four bytes (20 R68). -/
theorem eq_of_byteOf {v w : Word} (h : ∀ k : Fin 4, byteOf v k = byteOf w k) : v = w := by
  apply BitVec.eq_of_getLsbD_eq
  intro i hi
  have hbyte := congrArg (BitVec.getLsbD · (i % 8)) (h ⟨i / 8, by omega⟩)
  simpa [byteOf, BitVec.getLsbD_extractLsb', Nat.mod_lt, Nat.div_add_mod] using hbyte

/-- An IN_BUF word reads back as it was written (20 R69, R70). -/
theorem inWord_putInWord (s : State) (w : Nat) (v : Word) : (s.putInWord w v).inWord w = v :=
  eq_of_byteOf fun k => byteOf_inWord_of_get (get_putInWord_byte s w v k)

/-- A Q_VAL register reads back as it was written (10 R28). -/
theorem regValue_storeReg_qVal (s : State) (v : Word) (i : Fin 4) :
    (s.storeReg v (.qVal i)).regValue (.qVal i) = v := by
  fin_cases i <;> rfl

/-- The bits an input register has (10 R23, R26 to R28). -/
def Reg.mask : Reg → Word
  | .ctrl => 0x7
  | .inLen => 0xFF
  | .qKind => 0x3
  | _ => 0xFFFFFFFF

/-- An input register shows the bits it has of the word stored, and 0 elsewhere (20 R66). -/
theorem regValue_storeReg (s : State) (v : Word) {r : Reg} (hr : r.isInput = true) :
    (s.storeReg v r).regValue r = v &&& r.mask := by
  cases r with
  | ctrl => exact zeroExtend_low v 3
  | inLen => exact zeroExtend_low v 8
  | qKind => exact zeroExtend_low v 2
  | qVal i => exact (regValue_storeReg_qVal s v i).trans BitVec.and_allOnes.symm
  | inBuf w => exact (inWord_putInWord s w v).trans BitVec.and_allOnes.symm
  | _ => cases hr

/-- What a register holds is no matter of the host's list, the answer, the mover or the latency. -/
theorem regValue_surroundings (s : State) (bus : List HostStep) (resp : Option BusResp) (mover : Agent) (wait : Nat)
    (r : Reg) : State.regValue { s with bus := bus, resp := resp, mover := mover, wait := wait } r = s.regValue r := by
  cases r <;> rfl

/-- On an idle block a read of a register answers what it holds. -/
theorem step_load {s : State} {r : Reg} {rest : List HostStep} (hidle : s.pending = none)
    (hbus : s.bus = hostRead (BitVec.ofNat 12 r.offset) :: rest) :
    step s = .next { s.hostTurn with resp := some (.readOk (s.regValue r)), draws := s.draws + readDraws } := by
  have hnext : s.HostNext (hostRead (BitVec.ofNat 12 r.offset)) :=
    State.hostNext_of_bus (State.engineReady_idle hidle) hbus
  have hstands : s.hostTurn.regValue r = s.regValue r := regValue_surroundings s _ _ _ _ r
  rw [step_hostAccess hnext rfl, hostRead, State.hostAccess, readWindow_offset,
    readReg_stands (s := s.hostTurn) (.inl hidle), hstands, State.hostTurn_draws]

/-- Settles O46: the write is `step_store`, the read `step_load`, and the word read `regValue_storeReg`. -/
theorem inputRegistersReadBack : Obligations.InputRegistersReadBack := by
  intro s r v mask rest hr hidle hbus
  obtain ⟨hinput, rfl⟩ : r.isInput = true ∧ mask = r.mask := by
    obtain ⟨rfl, rfl⟩ | ⟨rfl, rfl⟩ | ⟨rfl, rfl⟩ | ⟨⟨i, rfl⟩ | ⟨w, rfl⟩, rfl⟩ := hr
    all_goals exact ⟨rfl, rfl⟩
  have hcmd : r ≠ .cmd := by rintro rfl; cases hinput
  have htidle : (s.hostTurn.storeReg v r).pending = none := (storeReg_pending ..).trans hidle
  have htbus : (s.hostTurn.storeReg v r).bus = hostRead (BitVec.ofNat 12 r.offset) :: rest := by
    rw [storeReg_bus, State.hostTurn_bus, hbus, List.tail_cons]
  refine ⟨_, _, step_store hcmd hidle hbus, step_load htidle htbus, ?resp, congrArg List.tail htbus, rfl, ?ctrl, ?inLen,
    ?qKind, ?qVal0, ?qVal1, ?qVal2, ?qVal3, ?inBuf⟩
  case resp =>
    rw [← regValue_storeReg s.hostTurn v hinput]
    exact congrArg (fun v => some (BusResp.readOk v)) (regValue_surroundings (s.hostTurn.storeReg v r) _ _ _ _ r)
  case inBuf =>
    rintro w rfl
    exact ⟨rfl, fun a => get_putInWord_outside s.hostTurn w v⟩
  all_goals
    rintro rfl
    rfl

/-! ### A run of writes, and LOAD (30 R113) -/

/-- The registers of a list stored one after the other. -/
def State.storeAll (s : State) (ws : List (Reg × Word)) : State := ws.foldl (fun s x => s.storeReg x.2 x.1) s

/-- The host steps that write the registers of a list. -/
def hostStores (ws : List (Reg × Word)) : List HostStep :=
  ws.map fun x => hostWrite (BitVec.ofNat 12 x.1.offset) x.2

/-- On an idle block the host's writes of registers other than CMD are the stores, one after the other. -/
theorem run_hostStores {ws : List (Reg × Word)} {s : State} {rest : List HostStep} (hws : ∀ x ∈ ws, x.1 ≠ .cmd)
    (hidle : s.pending = none) (hbus : s.bus = hostStores ws ++ rest) :
    ∃ t : State, core.run (hostStores ws).length s = .next t ∧ t.bus = rest ∧ t.block = s.block.storeAll ws := by
  induction ws generalizing s with
  | nil => exact ⟨s, rfl, hbus, rfl⟩
  | cons x ws ih =>
    obtain ⟨hx, hws⟩ := List.forall_mem_cons.1 hws
    let u : State := { s.hostTurn.storeReg x.2 x.1 with resp := some .writeOk }
    have hstep : step s = .next u := step_store hx hidle hbus
    have hubus : u.bus = hostStores ws ++ rest := (storeReg_bus ..).trans (congrArg List.tail hbus)
    obtain ⟨t, hrun, htbus, hblock⟩ := ih (s := u) hws ((storeReg_pending ..).trans hidle) hubus
    have hublock : u.block = s.block.storeReg x.2 x.1 := block_storeReg s.hostTurn x.2 x.1
    refine ⟨t, (run_succ_of_step (M := core) hstep).trans hrun, htbus, ?_⟩
    rw [hblock, hublock]
    rfl

/-- The IN_BUF words LOAD writes for the first `n` words of its bytes. -/
def loadWords (B : List Byte) (n : Nat) : List (Reg × Word) :=
  (List.range n).map fun k => (.inBuf (Fin.ofNat 64 k), packWord B k)

/-- The registers LOAD writes: the IN_BUF words that hold its bytes, then IN_LEN (30 R113). -/
def loadStores (B : List Byte) : List (Reg × Word) :=
  loadWords B ((B.length + 3) / 4) ++ [(.inLen, BitVec.ofNat 32 B.length)]

/-- LOAD of bytes that fit IN_BUF is the writes of these registers. -/
theorem hostLoad_eq {B : List Byte} (h : B.length ≤ 255) : hostLoad B = hostStores (loadStores B) := by
  simp only [hostLoad, hostStores, loadStores, loadWords, List.map_append, List.map_map]
  refine congrArg (· ++ _) (List.map_congr_left fun k hk => ?_)
  have hrange := List.mem_range.1 hk
  have hword : k < 64 := by omega
  simp [Reg.offset, Nat.mod_eq_of_lt hword]

/-- LOAD writes no CMD. -/
theorem ne_cmd_of_mem_loadStores {B : List Byte} {x : Reg × Word} (hx : x ∈ loadStores B) : x.1 ≠ .cmd := by
  obtain hword | hlen := List.mem_append.1 hx
  · obtain ⟨k, -, rfl⟩ := List.mem_map.1 hword
    exact nofun
  · rw [List.mem_singleton.1 hlen]
    exact nofun

/-- The first `n` words of IN_BUF hold the bytes, 0 past the last; nothing else changes (20 R68, R69). -/
theorem storeAll_loadWords (s : State) (B : List Byte) {n : Nat} (hn : n ≤ 64) :
    s.storeAll (loadWords B n) = { s with inBuf := (s.storeAll (loadWords B n)).inBuf } ∧
      ∀ j, Memory.get (s.storeAll (loadWords B n)).inBuf j =
        if j < 4 * n then some (B.getD j 0) else Memory.get s.inBuf j := by
  induction n with
  | zero => exact ⟨rfl, fun j => (if_neg (Nat.not_lt_zero j)).symm⟩
  | succ n ih =>
    obtain ⟨hframe, hget⟩ := ih (by omega)
    have hsucc : s.storeAll (loadWords B (n + 1)) = (s.storeAll (loadWords B n)).putInWord n (packWord B n) := by
      have hword : (Fin.ofNat 64 n : Nat) = n := Nat.mod_eq_of_lt hn
      rw [loadWords, List.range_succ, List.map_append, State.storeAll, List.foldl_append]
      exact congrArg (State.putInWord _ · _) hword
    rw [hsucc]
    refine ⟨by rw [hframe]; rfl, fun j => ?_⟩
    by_cases hin : 4 * n ≤ j ∧ j < 4 * n + 4
    · obtain ⟨k, rfl⟩ := Nat.exists_eq_add_of_le hin.1
      have hbyte := get_putInWord_byte (s.storeAll (loadWords B n)) n (packWord B n) ⟨k, by omega⟩
      rw [if_pos (by omega), hbyte, byteOf_packWord]
    · rw [get_putInWord_outside _ _ _ (by omega), hget]
      exact if_congr (by omega) rfl rfl

/-- LOAD writes IN_BUF and IN_LEN only (30 R113). -/
theorem storeAll_loadStores (s : State) {B : List Byte} (h : B.length ≤ 255) :
    s.storeAll (loadStores B) =
      { s with inBuf := (s.storeAll (loadWords B ((B.length + 3) / 4))).inBuf,
               inLen := (BitVec.ofNat 32 B.length).extractLsb' 0 8 } := by
  obtain ⟨hframe, -⟩ := storeAll_loadWords s B (n := (B.length + 3) / 4) (by omega)
  have hstores : s.storeAll (loadStores B) =
      (s.storeAll (loadWords B ((B.length + 3) / 4))).storeReg (BitVec.ofNat 32 B.length) .inLen := List.foldl_append
  rw [hstores, hframe]
  rfl

/-- A block whose IN_BUF holds a byte list, written, and whose IN_LEN is its length takes it into the snapshot. -/
theorem snapshot_input_of_get {s : State} {B : List Byte} (hlen : s.inLen.toNat = B.length)
    (hget : ∀ j < B.length, Memory.get s.inBuf j = B[j]?) : s.snapshot.input = B ∧ s.inputWritten = true := by
  refine ⟨List.ext_getElem ((length_snapshot_input s).trans hlen) fun j hj hj' => ?_,
    inputWritten_eq_true.2 fun j hj => ?_⟩
  · have hb : Memory.get s.inBuf j = some B[j] := (hget j hj').trans (List.getElem?_eq_getElem hj')
    exact (List.getElem_eq_iff hj).2 (getElem?_snapshot_input (hlen ▸ hj') hb)
  · rw [hget j (hlen ▸ hj), List.getElem?_eq_getElem (hlen ▸ hj)]
    exact Option.some_ne_none _

/-- Settles O60: the run is the stores of `loadStores`, whose IN_BUF words are `storeAll_loadWords`. -/
theorem loadPlacesTheInput : Obligations.LoadPlacesTheInput := by
  intro s B rest hlen hidle hbus
  rw [hostLoad_eq hlen] at hbus ⊢
  obtain ⟨t, hrun, htbus, hblock⟩ := run_hostStores (fun _ => ne_cmd_of_mem_loadStores) hidle hbus
  obtain ⟨-, hget⟩ := storeAll_loadWords s.block B (n := (B.length + 3) / 4) (by omega)
  rw [storeAll_loadStores s.block hlen] at hblock
  have hinBuf : t.inBuf = (s.block.storeAll (loadWords B ((B.length + 3) / 4))).inBuf := (congrArg State.inBuf hblock :)
  have hinLen : t.inLen = (BitVec.ofNat 32 B.length).extractLsb' 0 8 := (congrArg State.inLen hblock :)
  have hcount : t.inLen.toNat = B.length := by
    rw [hinLen, BitVec.extractLsb'_toNat, Nat.shiftRight_zero, BitVec.toNat_ofNat]
    omega
  rw [← hinBuf] at hget
  have hbytes (j : Nat) (hj : j < B.length) : Memory.get t.inBuf j = B[j]? := by
    rw [hget, if_pos (by omega), List.getD_eq_getElem _ _ hj, List.getElem?_eq_getElem hj]
  obtain ⟨hsnapshot, hwritten⟩ := snapshot_input_of_get hcount hbytes
  refine ⟨t, hrun, htbus, (congrArg State.pending hblock :).trans hidle, hcount, hbytes, fun j hlo hhi => ?_,
    fun j hlo => ?_, ?_, hsnapshot, hwritten⟩
  · rw [hget, if_pos hhi, List.getD_eq_default _ _ hlo]
  · exact (hget j).trans (if_neg (Nat.not_lt.2 hlo))
  · rw [hblock, ← hinBuf, ← hinLen]
    rfl

end Sys2Proof.Machine
end

section
/-! PROOFS. The record of an advertisement payload (40 R131, R132): the walk as a fold over AD structures, the split of
every payload into structures, and the ranges of the record (10 R49) with the ADV registers that show it. -/

namespace Sys2Proof.Machine

/-! ### The walk over AD structures (40 R131, R132, 30 R103) -/

/-- The length byte of a structure that fits one counts the type byte and the payload (30 R103). -/
theorem toNat_lengthByte {P : List Byte} (h : P.length ≤ 254) :
    (BitVec.ofNat 8 (P.length + 1)).toNat = P.length + 1 := by
  rw [BitVec.toNat_ofNat, Nat.mod_eq_of_lt (by omega)]

/-- With no structure left the walk keeps the record, whatever stands there (40 R132). -/
theorem walk_stops (fuel : Nat) {tail : List Byte} (a : Adv) (h : walkStops tail) : Adv.walk fuel tail a = a := by
  cases fuel with
  | zero => rfl
  | succ fuel =>
    cases tail with
    | nil => rfl
    | cons n rest => exact if_pos h

/-- A structure in front is dispatched, and the walk goes on behind it (40 R132). -/
theorem walk_adBytes (fuel : Nat) {x : Byte × List Byte} (rest : List Byte) (a : Adv) (h : x.2.length ≤ 254) :
    Adv.walk (fuel + 1) (adBytes x ++ rest) a = Adv.walk fuel rest (a.dispatch x.1 x.2) := by
  have hn := toNat_lengthByte h
  have hgo : ¬ (BitVec.ofNat 8 (x.2.length + 1) = 0 ∨
      (x.1 :: x.2 ++ rest).length < (BitVec.ofNat 8 (x.2.length + 1)).toNat) := by
    rw [hn, ← BitVec.toNat_inj, hn]
    simp
  rw [adBytes, List.cons_append, Adv.walk, if_neg hgo, hn]
  simp [slice, byteAt]

/-- The walk over structures and bytes at which it stops is the fold of `dispatch`, given a step for each. -/
theorem walk_structures {fuel : Nat} {xs : List (Byte × List Byte)} {tail : List Byte} (a : Adv)
    (hfuel : xs.length ≤ fuel) (hxs : ∀ x ∈ xs, x.2.length ≤ 254) (htail : walkStops tail) :
    Adv.walk fuel (xs.flatMap adBytes ++ tail) a = xs.foldl (fun a x => a.dispatch x.1 x.2) a := by
  induction xs generalizing fuel a with
  | nil => exact walk_stops fuel a htail
  | cons x xs ih =>
    obtain ⟨hx, hxs⟩ := List.forall_mem_cons.1 hxs
    obtain ⟨fuel, rfl⟩ := Nat.exists_eq_add_of_le' (Nat.le_of_add_left_le hfuel)
    rw [List.flatMap_cons, List.append_assoc, walk_adBytes fuel _ a hx, ih _ (Nat.le_of_succ_le_succ hfuel) hxs,
      List.foldl_cons]

/-- Every structure takes at least two bytes (40 R132). -/
theorem two_mul_length_le_flatMap (xs : List (Byte × List Byte)) : 2 * xs.length ≤ (xs.flatMap adBytes).length := by
  induction xs with
  | nil => exact le_rfl
  | cons x xs ih =>
    simp only [List.flatMap_cons, List.length_append, List.length_cons, adBytes]
    omega

/-- The record of a payload given as its structures (40 R131). -/
theorem parseAdv_structures {xs : List (Byte × List Byte)} {tail : List Byte} (hxs : ∀ x ∈ xs, x.2.length ≤ 254)
    (htail : walkStops tail) :
    parseAdv (xs.flatMap adBytes ++ tail) = xs.foldl (fun a x => a.dispatch x.1 x.2) Adv.empty := by
  have hlen := two_mul_length_le_flatMap xs
  exact walk_structures _ (by rw [List.length_append]; omega) hxs htail

/-- Bytes at which the walk does not stop begin with a structure. -/
theorem exists_adBytes_of_not_walkStops {B : List Byte} (h : ¬ walkStops B) :
    ∃ (x : Byte × List Byte) (rest : List Byte), B = adBytes x ++ rest ∧ x.2.length ≤ 254 := by
  match B, h with
  | [], h => exact absurd trivial h
  | n :: rest, h =>
    obtain ⟨hzero, hfits⟩ := not_or.1 h
    have hn : 0 < n.toNat := Nat.pos_of_ne_zero fun h0 => hzero (BitVec.eq_of_toNat_eq h0)
    match rest, hfits with
    | [], hfits => exact absurd hn (by simpa using hfits)
    | t :: rest, hfits =>
      have hlen : (rest.take (n.toNat - 1)).length = n.toNat - 1 := by
        rw [List.length_cons] at hfits
        rw [List.length_take]
        omega
      have hbyte : BitVec.ofNat 8 (n.toNat - 1 + 1) = n := by
        rw [Nat.sub_add_cancel hn, BitVec.ofNat_toNat, BitVec.setWidth_eq]
      refine ⟨(t, rest.take (n.toNat - 1)), rest.drop (n.toNat - 1), ?_, hlen.trans_le ?_⟩
      · rw [adBytes, hlen, hbyte, List.cons_append, List.cons_append, List.take_append_drop]
      · have hbound := n.isLt
        omega

/-- Every payload is structures and bytes at which the walk stops (40 R132). -/
theorem exists_structures (B : List Byte) : ∃ (xs : List (Byte × List Byte)) (tail : List Byte),
    B = xs.flatMap adBytes ++ tail ∧ (∀ x ∈ xs, x.2.length ≤ 254) ∧ walkStops tail := by
  by_cases hstops : walkStops B
  · exact ⟨[], B, rfl, List.forall_mem_nil _, hstops⟩
  · obtain ⟨x, rest, rfl, hx⟩ := exists_adBytes_of_not_walkStops hstops
    obtain ⟨xs, tail, hrest, hxs, htail⟩ := exists_structures rest
    refine ⟨x :: xs, tail, ?_, List.forall_mem_cons.2 ⟨hx, hxs⟩, htail⟩
    rw [hrest, List.flatMap_cons, List.append_assoc]
termination_by B.length
decreasing_by
  subst B
  simp only [adBytes, List.length_append, List.length_cons]
  omega

/-! ### The ranges of the record (10 R49) -/

section InRange

variable {a : Adv} (P : List Byte) (h : a.InRange)
include h

theorem addFlags_inRange : (a.addFlags P).InRange := by
  unfold Adv.addFlags
  split
  · exact h
  · exact h

theorem addList16_inRange : (a.addList16 P).InRange := by
  obtain ⟨h16, hrest⟩ := h
  rw [Adv.addList16, foldl_appendCap_entries 2 P h16]
  exact ⟨List.length_take_le _ _, hrest⟩

theorem addList32_inRange : (a.addList32 P).InRange := by
  obtain ⟨h16, h32, hrest⟩ := h
  rw [Adv.addList32, foldl_appendCap_entries 4 P h32]
  exact ⟨h16, List.length_take_le _ _, hrest⟩

theorem addList128_inRange : (a.addList128 P).InRange := by
  obtain ⟨h16, h32, h128, hrest⟩ := h
  rw [Adv.addList128, foldl_appendCap_entries 16 P h128]
  exact ⟨h16, h32, List.length_take_le _ _, hrest⟩

theorem addMfg_inRange : (a.addMfg P).InRange := by
  obtain ⟨h16, h32, h128, hmfg, hrest⟩ := h
  rw [Adv.addMfg, foldl_appendCap P hmfg]
  exact ⟨h16, h32, h128, List.length_take_le _ _, hrest⟩

theorem addOther_inRange (t : Byte) : (a.addOther t P).InRange := by
  by_cases hfree : a.oth.length < 4
  · obtain ⟨h16, h32, h128, hmfg, -, holen⟩ := h
    rw [addOther_of_free hfree]
    refine ⟨h16, h32, h128, hmfg, by simpa using hfree, List.forall_mem_append.2 ⟨holen, ?_⟩⟩
    exact List.forall_mem_singleton.2 (List.length_take_le 16 P)
  · rwa [addOther_of_full (Nat.le_of_not_lt hfree)]

/-- A structure keeps every count within its capacity, whatever its type (40 R133). -/
theorem dispatch_inRange (t : Byte) : (a.dispatch t P).InRange := by
  unfold Adv.dispatch
  split_ifs
  exacts [addFlags_inRange P h, addList16_inRange P h, addList32_inRange P h, addList128_inRange P h,
    addMfg_inRange P h, addOther_inRange P h t]

end InRange

/-- No payload makes a count exceed its capacity. -/
theorem parseAdv_inRange (B : List Byte) : (parseAdv B).InRange := by
  obtain ⟨xs, tail, rfl, hxs, htail⟩ := exists_structures B
  rw [parseAdv_structures hxs htail]
  exact List.foldlRecOn xs _ (show Adv.empty.InRange by decide) fun a ha x _ => dispatch_inRange x.2 ha x.1

/-! ### The registers of the ADV group (10 R31 to R37) -/

/-- A count that fits its field is shown in it. -/
theorem toNat_count {n c : Nat} (h : c < 2 ^ n) : (BitVec.ofNat n c).toNat = c := by
  rw [BitVec.toNat_ofNat, Nat.mod_eq_of_lt h]

/-- ADV_CNT shows the four counts in their bits, with 0 between them (10 R32). -/
theorem cntWord_fields (a : Adv) :
    a.cntWord.extractLsb' 0 4 = BitVec.ofNat 4 a.u16.length ∧
      a.cntWord.extractLsb' 8 3 = BitVec.ofNat 3 a.u32.length ∧
      a.cntWord.extractLsb' 16 2 = BitVec.ofNat 2 a.u128.length ∧
      a.cntWord.extractLsb' 24 3 = BitVec.ofNat 3 a.oth.length ∧
      a.cntWord.extractLsb' 4 4 = 0 ∧ a.cntWord.extractLsb' 11 5 = 0 ∧ a.cntWord.extractLsb' 18 6 = 0 ∧
      a.cntWord.extractLsb' 27 5 = 0 := by
  refine ⟨field_lowest, ?n32, ?n128, ?noth, field_above (by decide) field_lowest, ?above32, ?above128, ?aboveOth⟩
  case n32 =>
    iterate 2 refine field_above (by decide) ?_
    exact field_lowest
  case n128 =>
    iterate 4 refine field_above (by decide) ?_
    exact field_lowest
  case noth =>
    iterate 6 refine field_above (by decide) ?_
    exact field_lowest
  case above32 =>
    iterate 3 refine field_above (by decide) ?_
    exact field_lowest
  case above128 =>
    iterate 5 refine field_above (by decide) ?_
    exact field_lowest
  case aboveOth =>
    iterate 7 refine field_above (by decide) ?_
    exact BitVec.extractLsb'_eq_self

/-- ADV_MFG_LEN shows the count of manufacturer bytes (10 R33). -/
theorem toNat_mfgLenWord {a : Adv} (h : a.mfg.length ≤ 16) : a.mfgLenWord.toNat = a.mfg.length := by
  rw [Adv.mfgLenWord, BitVec.toNat_append, toNat_count (h.trans_lt (by decide))]
  simp

/-- ADV_FLAGS with a value shows it below VALID (10 R31). -/
theorem flagsWord_some {a : Adv} {f : Byte} (h : a.flags = some f) :
    a.flagsWord.extractLsb' 0 8 = f ∧ a.flagsWord.getLsbD 8 = true ∧ a.flagsWord.extractLsb' 9 23 = 0 := by
  rw [Adv.flagsWord, h]
  exact ⟨field_lowest, bit_above (by decide) (bit_lowest (b := true)),
    field_above (by decide) (field_above (by decide) BitVec.extractLsb'_eq_self)⟩

/-- ADV_OTH_DESC of a slot taken shows its type below its length (10 R37). -/
theorem othDescWord_some {a : Adv} {k : Nat} {o : OthSlot} (h : a.oth[k]? = some o) (hlen : o.bytes.length ≤ 16) :
    (a.othDescWord k).extractLsb' 0 8 = o.type ∧ ((a.othDescWord k).extractLsb' 8 5).toNat = o.bytes.length ∧
      (a.othDescWord k).extractLsb' 13 19 = 0 := by
  rw [Adv.othDescWord, h]
  refine ⟨field_lowest, ?_, field_above (by decide) (field_above (by decide) BitVec.extractLsb'_eq_self)⟩
  exact (congrArg BitVec.toNat (field_above (by decide) field_lowest)).trans (toNat_count (by omega))

/-! ### One 16-bit UUID (40 R135, 00 R8) -/

/-- A 16-bit number is the little-endian number of its two bytes (00 R8). -/
theorem ofNat_le_bytes (u : BitVec 16) : BitVec.ofNat 16 (le [u.extractLsb' 0 8, u.extractLsb' 8 8]) = u := by
  apply BitVec.eq_of_toNat_eq
  have hu := u.isLt
  simp only [le, BitVec.toNat_ofNat, BitVec.extractLsb'_toNat, Nat.shiftRight_eq_div_pow]
  omega

/-- Two bytes are one 16-bit entry (40 R135). -/
theorem entries_pair (x y : Byte) : entries 2 [x, y] = [[x, y]] := by
  simp [entries, slice]

/-! ### The obligations -/

/-- Settles O11: the completion parses the snapshot's bytes, and `parseAdv_structures` says what record that gives. -/
theorem advParseRecordsItsStructures : Obligations.AdvParseRecordsItsStructures := by
  intro s S xs tail hcompletes hinput hxs htail
  rw [← parseAdv_structures hxs htail, ← hinput]
  exact exec_instr_completes (op := .advParse) hcompletes

/-- Settles O12: `exists_structures`, each structure taking two bytes. -/
theorem everyPayloadSplitsIntoStructures : Obligations.EveryPayloadSplitsIntoStructures := by
  intro B
  obtain ⟨xs, tail, rfl, hxs, htail⟩ := exists_structures B
  have hlen := two_mul_length_le_flatMap xs
  exact ⟨xs, tail, rfl, hxs, htail, by rw [List.length_append]; omega⟩

/-- Settles O25: `parseAdv_inRange`, and the words of the ADV group field by field. -/
theorem parsedCountsStayInRange : Obligations.ParsedCountsStayInRange := by
  refine ⟨parseAdv_inRange, fun s hrange => ?_⟩
  obtain ⟨h16, h32, h128, hmfg, hoth, holen⟩ := hrange
  obtain ⟨hf16, hf32, hf128, hfoth, hzero⟩ := cntWord_fields s.adv
  refine ⟨⟨?n16, ?n32, ?n128, ?noth, hzero⟩, toNat_mfgLenWord hmfg, fun hnone => ?noFlags,
    fun f hf => flagsWord_some hf, fun i => ⟨field_zeroExtend (by decide), reserved_zeroExtend le_rfl⟩, fun _ => rfl,
    fun _ _ => rfl, fun k hnone => ?noSlot, fun k o ho => othDescWord_some ho (holen o (List.mem_of_getElem? ho))⟩
  case n16 => exact (congrArg BitVec.toNat hf16).trans (toNat_count (by omega))
  case n32 => exact (congrArg BitVec.toNat hf32).trans (toNat_count (by omega))
  case n128 => exact (congrArg BitVec.toNat hf128).trans (toNat_count (by omega))
  case noth => exact (congrArg BitVec.toNat hfoth).trans (toNat_count (by omega))
  case noFlags => rw [State.regValue, Adv.flagsWord, hnone]
  case noSlot => rw [State.regValue, Adv.othDescWord, hnone]

/-- Settles O26: the payload is one structure, whose one entry is the UUID; the wider variants' lists are empty. -/
theorem advertisedUuidIsFound : Obligations.AdvertisedUuidIsFound := by
  intro t u V ht a
  have ha : a = { Adv.empty with u16 := [u] } := by
    have hparse : a = Adv.empty.dispatch t [u.extractLsb' 0 8, u.extractLsb' 8 8] :=
      parseAdv_structures (xs := [(t, [u.extractLsb' 0 8, u.extractLsb' 8 8])]) (tail := [])
        (List.forall_mem_singleton.2 (show 2 ≤ 254 by decide)) trivial
    rw [hparse, dispatch_list16 ht, Adv.addList16, entries_pair]
    exact congrArg (fun v => { Adv.empty with u16 := [v] }) (ofNat_le_bytes u)
  rw [ha]
  refine ⟨?_, rfl, rfl⟩
  change [u].any (· == V.extractLsb' 0 16) = true ↔ _
  rw [List.any_cons, List.any_nil, Bool.or_false, beq_iff_eq, eq_comm]

end Sys2Proof.Machine
end

section
/-! PROOFS. Built blocks and corrupted ones (41_frame_decoder.md): the reference packer and its inverse (00 R12, 41
R196), the block layout (30 R94), and what one changed byte does to the checksum (41 R185, R186). -/

namespace Sys2Proof.Machine

/-! ### The reference packer (00 R12) -/

/-- A mask is the top bit of its group's first byte below the mask of the rest. -/
theorem packMask_cons (b : Byte) (bs : List Byte) : packMask (b :: bs) = Nat.bit (b.getLsbD 7) (packMask bs) := by
  have hbit : (b >>> 7).toNat = (b.getLsbD 7).toNat := by revert b; decide
  rw [packMask, hbit, Nat.bit_val, Nat.add_comm]

/-- Bit `j` of a mask is bit 7 of byte `j` of its group. -/
theorem testBit_packMask (G : List Byte) (j : Nat) : (packMask G).testBit j = (G.getD j 0).getLsbD 7 := by
  induction G generalizing j with
  | nil => simp [packMask]
  | cons b bs ih =>
    rw [packMask_cons]
    cases j with
    | zero => rw [Nat.testBit_bit_zero, List.getD_cons_zero]
    | succ j => rw [Nat.testBit_bit_succ, List.getD_cons_succ, ih]

/-- A mask has one bit for each byte of its group. -/
theorem packMask_lt (G : List Byte) : packMask G < 2 ^ G.length := by
  induction G with
  | nil => exact Nat.one_pos
  | cons b bs ih =>
    rw [packMask_cons, List.length_cons]
    exact Nat.bit_lt_two_pow_succ_iff.2 ih

/-- A packed byte with its own bit 7 restored. -/
theorem restoreBit_and_low {mask : Byte} {j : Nat} {d : Byte} (h : mask.getLsbD j = d.getLsbD 7) :
    restoreBit mask j (d &&& 0x7F) = d := by
  rw [restoreBit, h]
  clear h
  revert d
  decide

/-- A packed group unpacks to the group. -/
theorem mapIdx_restoreBit_packMask {G : List Byte} (h : G.length ≤ 7) :
    (G.map (· &&& 0x7F)).mapIdx (restoreBit (BitVec.ofNat 8 (packMask G))) = G := by
  refine List.ext_getElem (by simp) fun j hj hj' => ?_
  rw [List.getElem_mapIdx, List.getElem_map]
  refine restoreBit_and_low ?_
  rw [BitVec.getLsbD_ofNat, testBit_packMask, decide_eq_true (by omega), Bool.true_and, List.getD_eq_getElem _ _ hj']

@[simp] theorem packGroups_nil (fuel : Nat) : packGroups fuel [] = [] := by
  cases fuel <;> rfl

/-- A group in front of the packing of the rest. -/
theorem packGroups_succ {R : List Byte} (fuel : Nat) (h : R ≠ []) :
    packGroups (fuel + 1) R =
      BitVec.ofNat 8 (packMask (R.take 7)) :: (R.take 7).map (· &&& 0x7F) ++ packGroups fuel (R.drop 7) := by
  cases R with
  | nil => exact absurd rfl h
  | cons b bs => rfl

/-- Unpacking what the packer packs gives it back (41 R196). -/
theorem unpack7_packGroups {fuel : Nat} {R : List Byte} (h : R.length ≤ fuel) : unpack7 (packGroups fuel R) = R := by
  induction fuel generalizing R with
  | zero => rw [List.eq_nil_of_length_eq_zero (Nat.le_zero.1 h), packGroups_nil]; rfl
  | succ fuel ih =>
    by_cases hR : R = []
    · subst hR
      rfl
    · have htake : (R.take 7).length ≤ 7 := List.length_take_le 7 R
      rw [packGroups_succ fuel hR]
      by_cases hlast : R.length ≤ 7
      · rw [List.drop_eq_nil_of_le hlast, packGroups_nil, List.append_nil, unpack7_group (by simp),
          mapIdx_restoreBit_packMask htake, List.take_of_length_le hlast]
      · rw [unpack7_fullGroup _ (by simp; omega), mapIdx_restoreBit_packMask htake, ih (by simp; omega),
          List.take_append_drop]

/-- A packing has one mask for each 7 bytes or part of 7. -/
theorem length_packGroups {fuel : Nat} {R : List Byte} (h : R.length ≤ fuel) :
    (packGroups fuel R).length = R.length + (R.length + 6) / 7 := by
  induction fuel generalizing R with
  | zero => rw [List.eq_nil_of_length_eq_zero (Nat.le_zero.1 h), packGroups_nil]; rfl
  | succ fuel ih =>
    by_cases hR : R = []
    · subst hR
      rfl
    · have hpos : 0 < R.length := List.length_pos_iff.2 hR
      rw [packGroups_succ fuel hR, List.length_append, ih (by simp; omega), List.length_cons, List.length_map,
        List.length_take, List.length_drop]
      omega

/-- Every packed byte is below 0x80 (30 R94). -/
theorem lt_of_mem_packGroups {fuel : Nat} {R : List Byte} : ∀ b ∈ packGroups fuel R, b.toNat < 0x80 := by
  induction fuel generalizing R with
  | zero => exact List.forall_mem_nil _
  | succ fuel ih =>
    by_cases hR : R = []
    · subst hR
      exact List.forall_mem_nil _
    · have hmask : packMask (R.take 7) < 0x80 :=
        (packMask_lt _).trans_le (Nat.pow_le_pow_right (by decide) (List.length_take_le 7 R))
      have hlow : ∀ d : Byte, (d &&& 0x7F).toNat < 0x80 := by decide
      rw [packGroups_succ fuel hR]
      refine List.forall_mem_append.2 ⟨List.forall_mem_cons.2 ⟨?_, ?_⟩, ih⟩
      · rw [BitVec.toNat_ofNat]
        omega
      · exact List.forall_mem_map.2 fun d _ => hlow d

/-! ### One changed byte (41 R185) -/

/-- Replacing a byte replaces it in the XOR. -/
theorem xorFold_set {P : List Byte} {k : Nat} (b : Byte) (h : k < P.length) :
    xorFold (P.set k b) = xorFold P ^^^ (P[k] ^^^ b) := by
  simp only [xorFold_eq_foldr]
  induction P generalizing k with
  | nil => exact absurd h (Nat.not_lt_zero k)
  | cons c cs ih =>
    cases k with
    | zero =>
      rw [List.set_cons_zero, List.foldr_cons, List.foldr_cons, List.getElem_cons_zero]
      rw [BitVec.xor_comm c, BitVec.xor_assoc, ← BitVec.xor_assoc c, BitVec.xor_self, BitVec.zero_xor, BitVec.xor_comm]
    | succ k =>
      rw [List.set_cons_succ, List.foldr_cons, List.foldr_cons, ih (Nat.lt_of_succ_lt_succ h), BitVec.xor_assoc]
      rfl

/-- The XOR tells a byte list from the same list with one other byte. -/
theorem xorFold_set_ne {P : List Byte} {k : Nat} {b : Byte} (h : k < P.length) (hb : P[k] ≠ b) :
    xorFold (P.set k b) ≠ xorFold P := by
  rw [xorFold_set b h]
  intro heq
  have hzero : P[k] ^^^ b = 0 := (BitVec.xor_right_inj (xorFold P)).1 (heq.trans BitVec.xor_zero.symm)
  exact hb (BitVec.xor_eq_zero_iff.1 hzero)

/-- Replacing a byte of a list replaces it in the slice that holds it. -/
theorem slice_set (B : List Byte) (a n k : Nat) (b : Byte) : slice (B.set (a + k) b) a n = (slice B a n).set k b := by
  rw [slice, List.drop_set, if_neg (by omega), Nat.add_sub_cancel_left, List.take_set, slice]

/-- Another byte in the packed payload gives it another checksum (41 R185). -/
theorem xorFold_packed_set_ne {B : List Byte} {i : Nat} {b : Byte} (hlo : 22 ≤ i) (hhi : i + 1 < B.length)
    (hb : B[i]? ≠ some b) : xorFold (slice (B.set i b) 22 (B.length - 23)) ≠ xorFold (slice B 22 (B.length - 23)) := by
  obtain ⟨k, rfl⟩ := Nat.exists_eq_add_of_le hlo
  have hk : k < (slice B 22 (B.length - 23)).length := by rw [length_slice]; omega
  rw [slice_set]
  refine xorFold_set_ne hk fun heq => hb ?_
  rw [← heq, ← List.getElem?_eq_getElem hk, getElem?_slice, if_pos (by omega)]

/-! ### The block layout (30 R94, 95 section 0) -/

/-- The slice that stands between two parts of a list. -/
theorem slice_of_append {B A M C : List Byte} {a n : Nat} (hB : B = A ++ (M ++ C)) (ha : A.length = a)
    (hn : M.length = n) : slice B a n = M := by
  rw [slice, hB, ← ha, ← hn, List.drop_left, List.take_left]

/-- A byte read through a slice that holds it. -/
theorem byteAt_of_slice {B : List Byte} {a i : Nat} (n : Nat) (h : i < n) :
    byteAt B (a + i) = (slice B a n).getD i 0 := (getD_slice B a h).symm

/-- The byte that stands behind a part of a list. -/
theorem byteAt_of_append {B A C : List Byte} {x : Byte} {i : Nat} (hB : B = A ++ x :: C) (ha : A.length = i) :
    byteAt B i = x := by
  rw [byteAt, hB, ← ha, List.getD_append_right _ _ _ _ le_rfl, Nat.sub_self, List.getD_cons_zero]

section BuildBlock

variable (p : Params) (seq cmd sub : Byte) (P : List Byte)

@[simp] theorem length_buildBlock : (buildBlock p seq cmd sub P).length = 23 + P.length := by
  simp only [buildBlock, List.length_append, List.length_cons, List.length_nil, List.length_replicate,
    Vector.length_toList]
  omega

theorem slice_buildBlock_magic : slice (buildBlock p seq cmd sub P) 0 4 = p.magic.toList :=
  slice_of_append (A := []) (by simp only [buildBlock, List.append_assoc]; rfl) rfl Vector.length_toList

theorem slice_buildBlock_dirFrom : slice (buildBlock p seq cmd sub P) 4 2 = p.dirFrom.toList :=
  slice_of_append (A := p.magic.toList) (by simp only [buildBlock, List.append_assoc]; rfl) Vector.length_toList
    Vector.length_toList

/-- Bytes 16 to 21: start, vendor id, sequence number, checksum, command, sub-command. -/
theorem slice_buildBlock_frame :
    slice (buildBlock p seq cmd sub P) 16 6 = [0xF0, p.sysexId, seq, xorFold P, cmd, sub] :=
  slice_of_append (A := p.magic.toList ++ p.dirFrom.toList ++ BitVec.ofNat 8 (23 + P.length) :: List.replicate 9 0)
    (by simp only [buildBlock, List.append_assoc]; rfl) (by simp) rfl

theorem slice_buildBlock_payload : slice (buildBlock p seq cmd sub P) 22 P.length = P :=
  slice_of_append (A := p.magic.toList ++ p.dirFrom.toList ++ BitVec.ofNat 8 (23 + P.length) :: List.replicate 9 0 ++
    [0xF0, p.sysexId, seq, xorFold P, cmd, sub]) (by simp only [buildBlock, List.append_assoc]; rfl) (by simp) rfl

theorem byteAt_buildBlock_trailer : byteAt (buildBlock p seq cmd sub P) (22 + P.length) = 0xF7 :=
  byteAt_of_append rfl (by simp; omega)

/-- A byte of the frame header. -/
theorem byteAt_buildBlock_frame {i : Nat} (h : i < 6) :
    byteAt (buildBlock p seq cmd sub P) (16 + i) = [0xF0, p.sysexId, seq, xorFold P, cmd, sub].getD i 0 := by
  rw [byteAt_of_slice 6 h, slice_buildBlock_frame]

/-- A built block passes the frame checks, whatever CTRL asks for (30 R94). -/
theorem framePasses_buildBlock (ctrl : BitVec 3) : framePasses p (buildBlock p seq cmd sub P) ctrl := by
  have hlen := length_buildBlock p seq cmd sub P
  have hframe {i : Nat} (hi : i < 6) := byteAt_buildBlock_frame p seq cmd sub P hi
  refine ⟨(magic_iff (by omega)).1 (slice_buildBlock_magic ..),
    (dirFrom_iff (by omega)).1 (slice_buildBlock_dirFrom ..), hframe (i := 0) (by decide), hframe (i := 1) (by decide),
    fun _ => ?trailer, fun _ => ?csum⟩
  case trailer => rw [hlen, show 23 + P.length - 1 = 22 + P.length by omega, byteAt_buildBlock_trailer]
  case csum =>
    rw [hlen, Nat.add_sub_cancel_left, slice_buildBlock_payload]
    exact (hframe (i := 3) (by decide)).symm

/-- The packed payload of a built block is what it was built around. -/
theorem packedPayload_buildBlock : packedPayload (buildBlock p seq cmd sub P) = P := by
  rw [packedPayload, length_buildBlock, minBlock, Nat.add_sub_cancel_left, slice_buildBlock_payload]

end BuildBlock

/-- A frame that passes its checks and unpacks to an amp-name response of a valid name, with the name at offset 1, gives
that name (41 R204). -/
theorem decodeBlock_ampName {p : Params} {B N : List Byte} {n : Byte} {ctrl : BitVec 3} (hlen : 23 ≤ B.length)
    (hpass : framePasses p B ctrl) (hcmd : byteAt B 20 = 0x03) (hsub : byteAt B 21 = 0x11)
    (hoffset : nameOff2 ctrl = false) (hunpack : unpack7 (packedPayload B) = n :: N) (hn : n.toNat = N.length)
    (hutf8 : utf8Valid N = true) : (decodeBlock p B ctrl).ampName = some (byteAt B 18, N) := by
  have hname : slice (n :: N) 1 n.toNat = N := by rw [hn]; exact List.take_length
  have hcode : messageCode B (unpack7 (packedPayload B)) ctrl = .okAmpname := by
    rw [hunpack, messageCode_of_ampName hcmd hsub, nameOffset, hoffset, if_neg Bool.false_ne_true,
      nameCode_of_fits (List.cons_ne_nil n N) (by rw [List.getD_cons_zero, hn, List.length_cons, Nat.add_comm]),
      List.getD_cons_zero, hname, hutf8, if_pos rfl]
  rw [decodeBlock_of_pass hlen ((frameReject_eq_none_iff hlen).2 hpass), decodeFrame_of_ok hcode, hunpack,
    ampName_eq_some rfl, nameOffset, hoffset]
  exact congrArg (fun name => some (byteAt B 18, name)) hname

/-! ### The obligations -/

/-- Settles O30: a frame that passes is `decodeFrame`, which is unpacked; any other result leaves nothing unpacked. -/
theorem unpackedExactlyWhenFramePasses : Obligations.UnpackedExactlyWhenFramePasses := by
  refine fun p B ctrl => ⟨fun hlen hpass => ?_, fun hrejected => ?_⟩
  · rw [decodeBlock_of_pass hlen ((frameReject_eq_none_iff hlen).2 hpass), decodeFrame_unp]
    rfl
  · by_cases hlen : 23 ≤ B.length
    · have hfails : ¬ framePasses p B ctrl := hrejected.resolve_left (Nat.not_lt.2 hlen)
      obtain ⟨code, hcode⟩ := Option.ne_none_iff_exists'.1 (mt (frameReject_eq_none_iff hlen).1 hfails)
      rw [decodeBlock_of_reject hlen hcode, captured]
    · rw [decodeBlock_of_short (Nat.lt_of_not_le hlen)]
      rfl

/-- Settles O33: neither order of the to-device tag is either candidate of the block's own tag. -/
theorem toDeviceTagRejected : Obligations.ToDeviceTagRejected := by
  intro B ctrl hlen hmagic htag
  obtain ⟨-, hdir, -⟩ := firstFailingFrameCheckDecides Config.params B ctrl hlen
  refine (hdir hmagic fun hdirOk => ?_).1
  have htagOwn : slice B 4 2 = Config.dirFromBytes.toList := (dirFrom_iff (p := Config.params) hlen).2 hdirOk
  rw [htagOwn, Config.dirFromBytes] at htag
  revert htag
  cases Config.dirHighFirst <;> decide

/-- Settles O35: the checks before the checksum read no packed byte, and `xorFold_packed_set_ne` fails the checksum. -/
theorem singleCorruptedByteRejected : Obligations.SingleCorruptedByteRejected := by
  intro p B ctrl i b hpass hcsumEn hlo hhi hb
  obtain ⟨hmagic, hdir, hstart, hsysex, htrailer, hcsum⟩ := hpass
  have hlen : (B.set i b).length = B.length := List.length_set
  have hbyte {j : Nat} (hj : i ≠ j) : byteAt (B.set i b) j = byteAt B j := byteAt_congr (List.getElem?_set_ne hj)
  obtain ⟨-, -, -, -, -, hreject, -⟩ := firstFailingFrameCheckDecides p (B.set i b) ctrl (by omega)
  refine (hreject (fun j => ?_) (fun j => ?_) ?_ ?_ (fun htrl => ?_) fun hok => ?_).1
  · rw [hbyte (by omega), hmagic]
  · rw [hbyte (by omega), hdir]
  · rw [hbyte (by omega), hstart]
  · rw [hbyte (by omega), hsysex]
  · rw [hlen, hbyte (by omega), htrailer htrl]
  · have hsame := hok hcsumEn
    rw [hlen, hbyte (by omega), ← hcsum hcsumEn] at hsame
    exact xorFold_packed_set_ne hlo hhi hb hsame

/-- Settles O37: `length_unpack7`, and its bounds. -/
theorem unpackedLengthLaw : Obligations.UnpackedLengthLaw := by
  refine fun P => ⟨length_unpack7 P, fun h => ?_, length_unpack7_le⟩
  rw [length_unpack7]
  omega

/-- Settles O38: the packer with as many groups as bytes. -/
theorem unpackInvertsPack : Obligations.UnpackInvertsPack := fun _ =>
  ⟨unpack7_packGroups le_rfl, length_packGroups le_rfl, lt_of_mem_packGroups⟩

/-- Settles O39: a built block passes its checks, and its payload unpacks to the response it was packed from. -/
theorem builtAmpNameBlockDecodes : Obligations.BuiltAmpNameBlockDecodes := by
  intro s S seq N hcompletes hoffset hutf8 hN hinput
  have hn : (BitVec.ofNat 8 N.length).toNat = N.length := by
    rw [BitVec.toNat_ofNat]
    omega
  obtain ⟨hunpack, hpacked, -⟩ := unpackInvertsPack (BitVec.ofNat 8 N.length :: N)
  have hframe {i : Nat} (hi : i < 6) := byteAt_buildBlock_frame Config.params seq 0x03 0x11
    (pack7 (BitVec.ofNat 8 N.length :: N)) hi
  have hlen := length_buildBlock Config.params seq 0x03 0x11 (pack7 (BitVec.ofNat 8 N.length :: N))
  rw [List.length_cons] at hpacked
  refine ⟨by rw [hinput]; omega, _, exec_instr_completes (op := .blkDecode) hcompletes, ?_⟩
  change (decodeBlock Config.params S.input S.ctrl).ampName = _
  rw [hinput, decodeBlock_ampName (by omega) (framePasses_buildBlock ..) (hframe (i := 4) (by decide))
    (hframe (i := 5) (by decide)) hoffset (by rw [packedPayload_buildBlock, hunpack]) hn hutf8]
  exact congrArg (fun q => some (q, N)) (hframe (i := 2) (by decide))

end Sys2Proof.Machine
end

section
/-! PROOFS. The invariant of the block (10 R49, R25, R45, R46): what each operation keeps of it, and that every step
keeps it. -/

namespace Sys2Proof.Machine

/-! ### The ranges of the DEC group (10 R42, R43, R49) -/

/-- A result that leaves no name is in range when its unpacked bytes fit UNP_BUF. -/
theorem dec_inRange_of_noName {d : Dec} (hunp : d.unp.length ≤ 223) (hcode : d.code ≠ .okAmpname) (hnlen : d.nlen = 0)
    (hnstart : d.nstart = 0) : d.InRange :=
  ⟨hunp, fun hname => absurd (nameWord_eq_zero hnlen hnstart) hname, fun hok => absurd hok hcode⟩

/-- An amp name that is decoded lies within the unpacked bytes (41 R202). -/
theorem fits_of_nameCode_ok {U : List Byte} {o : Nat} (h : nameCode U o = .okAmpname) :
    o + (U.getD 0 0).toNat ≤ U.length := by
  by_contra hout
  rw [nameCode_of_out (.inr (Nat.lt_of_not_le hout))] at h
  cases h

/-- Only the amp-name response gives an amp name (41 R201). -/
theorem nameCode_of_messageCode_ok {B U : List Byte} {ctrl : BitVec 3} (h : messageCode B U ctrl = .okAmpname) :
    nameCode U (nameOffset ctrl) = .okAmpname := by
  by_cases hname : byteAt B 20 = 0x03 ∧ byteAt B 21 = 0x11
  · rwa [messageCode_of_ampName hname.1 hname.2] at h
  · rw [messageCode_of_other hname] at h
    cases h

/-- NSTART is 1 or 2 (10 R43). -/
theorem nameOffset_range (ctrl : BitVec 3) : nameOffset ctrl = 1 ∨ nameOffset ctrl = 2 := by
  rw [nameOffset]
  split
  · exact .inr rfl
  · exact .inl rfl

/-- A frame that passes its checks leaves the DEC group in range. -/
theorem decodeFrame_inRange {B : List Byte} {ctrl : BitVec 3} (hlen : B.length ≤ 255) :
    (decodeFrame B ctrl).InRange := by
  have hpayload : (packedPayload B).length ≤ 255 := by
    rw [packedPayload, length_slice]
    omega
  have hunp : (unpack7 (packedPayload B)).length ≤ 223 := length_unpack7_le hpayload
  by_cases hok : messageCode B (unpack7 (packedPayload B)) ctrl = .okAmpname
  · have hfits := fits_of_nameCode_ok (nameCode_of_messageCode_ok hok)
    rw [decodeFrame_of_ok hok]
    refine ⟨hunp, fun _ => rfl, fun _ => ?_⟩
    rcases nameOffset_range ctrl with hoff | hoff
    · rw [hoff] at hfits ⊢
      exact ⟨.inl rfl, hfits⟩
    · rw [hoff] at hfits ⊢
      exact ⟨.inr rfl, hfits⟩
  · rw [decodeFrame_of_not_ok hok]
    exact dec_inRange_of_noName hunp hok rfl rfl

/-- Every block that IN_BUF can hold leaves the DEC group in range. -/
theorem decodeBlock_inRange (p : Params) {B : List Byte} (ctrl : BitVec 3) (hlen : B.length ≤ 255) :
    (decodeBlock p B ctrl).InRange := by
  by_cases hshort : B.length < 23
  · rw [decodeBlock_of_short hshort]
    decide
  · cases hreject : frameReject p B ctrl with
    | some code =>
      rw [decodeBlock_of_reject (Nat.le_of_not_lt hshort) hreject]
      exact dec_inRange_of_noName (Nat.zero_le _) (ne_of_mem_of_not_mem (frameReject_cases hreject) (by decide)) rfl rfl
    | none =>
      rw [decodeBlock_of_pass (Nat.le_of_not_lt hshort) hreject]
      exact decodeFrame_inRange hlen

/-! ### The effects of the commands -/

/-- The effect of every command keeps the ADV group in range. -/
theorem Cmd.effect_adv_inRange (op : Cmd) (S : Snapshot) {s : State} (h : s.adv.InRange) :
    (op.effect S s).adv.InRange := by
  cases op with
  | advParse => exact parseAdv_inRange S.input
  | clear => exact (by decide : Adv.empty.InRange)
  | _ => exact h

/-- The effect of every command on a snapshot of at most 255 bytes keeps the DEC group in range. -/
theorem Cmd.effect_dec_inRange (op : Cmd) {S : Snapshot} {s : State} (hlen : S.input.length ≤ 255)
    (h : s.dec.InRange) : (op.effect S s).dec.InRange := by
  cases op with
  | blkDecode => exact decodeBlock_inRange Config.params S.ctrl hlen
  | unpack7 => exact dec_inRange_of_noName (length_unpack7_le hlen) nofun rfl rfl
  | clear => exact (by decide : Dec.cleared.InRange)
  | _ => exact h

/-- An accepted opcode is 1 to 6 (43 R240). -/
theorem Cmd.opcode_range (op : Cmd) : op.opcode.toNat ≤ 6 ∧ (op.opcode != 0) = true := by
  cases op <;> decide

/-! ### The invariant -/

/-- The invariant speaks of the block alone. -/
theorem State.Inv.of_block {s t : State} (h : s.Inv) (hblock : t.block = s.block) : t.Inv := by
  have hb : t.block.Inv := hblock ▸ ⟨h.advInRange, h.decInRange, h.inBufWf, h.lastOpLegal, h.doneIff, h.pendingAgrees⟩
  exact ⟨hb.advInRange, hb.decInRange, hb.inBufWf, hb.lastOpLegal, hb.doneIff, hb.pendingAgrees⟩

/-- The completion of the pending command keeps the invariant. -/
theorem State.Inv.completes {s : State} {p : Pending} (h : s.Inv) (hp : s.pending = some p) :
    (p.op.effect p.snap s).finish.Inv := by
  obtain ⟨hlastOp, -, -, -, hinput, -⟩ := h.pendingAgrees p hp
  have hbound := s.inLen.isLt
  have hlen : p.snap.input.length ≤ 255 := by omega
  refine ⟨p.op.effect_adv_inRange p.snap h.advInRange, p.op.effect_dec_inRange hlen h.decInRange, ?_, ?_, ?_, nofun⟩
  · rw [Cmd.effect_frame]
    exact h.inBufWf
  · rw [Cmd.effect_frame]
    exact h.lastOpLegal
  · have hop : (s.lastOp != 0) = true := hlastOp ▸ p.op.opcode_range.2
    rw [Cmd.effect_frame]
    change true = (s.lastOp != 0 && true)
    rw [hop, Bool.and_true]

/-- A command just accepted agrees with the registers its snapshot was taken from (10 R45, R46). -/
theorem agrees_accept {op : Cmd} {s : State} (hwritten : op.readsInput = true → s.inputWritten = true) :
    ({ op := op, snap := s.snapshot } : Pending).Agrees (s.accept op) :=
  ⟨rfl, rfl, rfl, rfl, length_snapshot_input s, fun _ hj _ hb => getElem?_snapshot_input hj hb, hwritten⟩

/-- The host's step keeps the invariant. -/
theorem State.HostEffect.keeps_inv {s u : State} (he : s.HostEffect u) (h : s.Inv) : u.Inv := by
  cases he with
  | same => exact h
  | dropped => exact ⟨h.advInRange, h.decInRange, h.inBufWf, h.lastOpLegal, h.doneIff, h.pendingAgrees⟩
  | illegal => exact ⟨h.advInRange, h.decInRange, h.inBufWf, h.lastOpLegal, h.doneIff, h.pendingAgrees⟩
  | stored v r hidle =>
    have hwf := wf_storeReg v r h.inBufWf
    rw [storeReg_frame] at hwf ⊢
    refine ⟨h.advInRange, h.decInRange, hwf, h.lastOpLegal, h.doneIff, fun p hp => ?_⟩
    exact absurd (State.busy_eq_true.2 ⟨p, hp⟩) (Bool.eq_false_iff.1 hidle)
  | accepted op hidle hwritten =>
    refine ⟨h.advInRange, h.decInRange, h.inBufWf, op.opcode_range.1, (Bool.and_false _).symm, ?_⟩
    rintro p ⟨⟩
    exact agrees_accept hwritten

/-! ### The obligations -/

/-- Settles O56: every part of the invariant is a closed fact of the reset state. -/
theorem resetMeetsInvariant : Obligations.ResetMeetsInvariant :=
  ⟨by decide, by decide, Memory.wf_reset, by decide, by decide, nofun⟩

/-- Settles O55: each of the three things a step can leave in the block meets the invariant. -/
theorem stepKeepsInvariant : Obligations.StepKeepsInvariant := by
  intro s t hinv h
  obtain ⟨p, hready, rfl⟩ | ⟨-, hblock⟩ | ⟨-, u, heffect, hblock⟩ := step_block_cases h
  · have hengine : s.engineTurn.Inv := hinv.of_block rfl
    exact hengine.completes (State.engineReady_eq_some.1 hready).1
  · exact State.Inv.of_block resetMeetsInvariant hblock
  · exact (heffect.keeps_inv hinv).of_block hblock

end Sys2Proof.Machine
end
